-- ==== Sys2Proof/Word.lean ====
section
/-! DEFINITION. The word types of the PMX core: a cell (00_scope R11, `CELL_BITS` = 32), an output byte and a
12-bit pixel (10_state R42). -/

namespace Sys2Proof

/-- The value of a cell, a register, a stack entry, a port or the pc: 32 bits, read as a signed
two's-complement integer by `toInt` (00_scope R11, R13). -/
abbrev Word := BitVec 32

/-- A byte of console output (44_device_io R210). -/
abbrev Byte := BitVec 8

/-- A pixel's 12-bit colour value (10_state R42). -/
abbrev Colour := BitVec 12

end Sys2Proof
end

