-- ==== Sys2Proof/Config.lean ====
section
/-! DEFINITION. What an implementation fixes: the sizes of 00_scope R11, the settings of its parameters that have
a stated alternative, the names of the opcode map's rows, and the two OPEN tables (92_eei_decisions D42). -/

namespace Sys2Proof

/-- The 35 rows of the opcode map, by name and in its order (30_encoding R86). Their values are the parameter `OPC`, by
default `opcodeValue` in Decode. -/
inductive Opcode where
  | halt
  | loadR1 | loadR2 | loadR3 | loadR4 | loadR5 | loadR6 | loadR7 | loadR8
  | add | sub | push | pop | equal | gth | lth | dup | pot | ovr | inc | dcr
  | mov | str | sqrt | abs | pow | dvo | dvw | swap | goto | jmp | rmv | jnz | rpc | ret
deriving DecidableEq, Repr

/-- The 27 glyphs of `FONT`: space and `A`..`Z` (10_state R43). -/
inductive Glyph where
  | space
  | a | b | c | d | e | f | g | h | i | j | k | l | m
  | n | o | p | q | r | s | t | u | v | w | x | y | z
deriving DecidableEq, Repr

/-- What `Arith` does with a result outside the 32-bit range (42_arithmetic R161). -/
inductive ArithOverflow where
  | wrap | fault
deriving DecidableEq, Repr

/-- Where the single-step budget is read (10_state R32). -/
inductive BudgetSource where
  | stepsField | r8
deriving DecidableEq, Repr

/-- Where `SWAP` finds its register numbers (41_data_movement R140, R141). -/
inductive SwapOperands where
  | inline | stack
deriving DecidableEq, Repr

/-- The rasterizer's index formula (46_display_device R248, R249). -/
inductive RasterMode where
  | compat | rowMajor
deriving DecidableEq, Repr

/-- What a nonzero codepoint without a glyph does to the scan (46_display_device R246). -/
inductive UnmappedCodepoint where
  | blank | stop
deriving DecidableEq, Repr

/-- When the bus is scanned (45_device_bus R227). -/
inductive ScanPoint where
  | perQuantum | perInstruction
deriving DecidableEq, Repr

/-- How wide a port stores what `DVW` writes (10_state R41). -/
inductive PortStore where
  | cell | byte
deriving DecidableEq, Repr

/-- The parameters of 00_scope R11 that have a stated alternative, `CODEMAP` (46_display_device R245) and `OPC`
(30_encoding R86, R87). R11: "A model may also take any of them as an argument"; State carries them (log entry 2, DESIGN
CHOICE, safe). `opc` holds the value of each row, in the order of `Opcode`. -/
structure Params where
  arithOverflow : ArithOverflow
  budgetSource : BudgetSource
  swapOperands : SwapOperands
  rasterMode : RasterMode
  unmappedCodepoint : UnmappedCodepoint
  displayClearsPort : Bool
  scanPoint : ScanPoint
  portStore : PortStore
  codemap : List (Word × Glyph)
  opc : Vector Word 35
deriving DecidableEq, Repr

/-- A font: whether bit `r` (row, 0 at the top), `c` (column, 0 at the left) of a glyph is set (10_state R43). -/
abbrev Font := Glyph → Nat → Nat → Bool

namespace Config

/-- `N`, the number of memory cells (00_scope R11). -/
def memCells : Nat := 10485760

/-- `DISPLAY_CELLS`, the size of the Display Command Region (00_scope R11). -/
def displayCells : Nat := 480000

/-- `DISPLAY_BASE`, the first cell of the Display Command Region (00_scope R11). -/
def displayBase : Nat := memCells - displayCells

/-- `WS_CAP` (00_scope R11). -/
def wsCap : Nat := 256

/-- `RS_CAP` (00_scope R11). -/
def rsCap : Nat := 256

/-- `NUM_PORTS` (00_scope R11). -/
def numPorts : Nat := 256

/-- `TRIGGER_VALUE` (45_device_bus R221). -/
def triggerValue : Word := 1

/-- `DISPLAY_CLASS`, the high nibble of the display's ports (45_device_bus R223). -/
def displayClass : Nat := 1

/-- `PORT_STDERR` (44_device_io R210). -/
def portStderr : Nat := 24

/-- `PORT_STDOUT` (44_device_io R210). -/
def portStdout : Nat := 25

/-- `RECORD_CELLS`, the length of a Display Command Record (46_display_device R244). -/
def recordCells : Nat := 5

/-- `GLYPH_H` (00_scope R11). -/
def glyphH : Nat := 5

/-- `GLYPH_W` (00_scope R11). -/
def glyphW : Nat := 5

/-- `PIX_W` (00_scope R11). -/
def pixW : Nat := 800

/-- `PIX_H` (00_scope R11). -/
def pixH : Nat := 600

/-- `TEXT_PITCH` (46_display_device R258). -/
def textPitch : Nat := 6

/-- `FONT`, OPEN (92_eei_decisions D42): a free value, of which nothing can be proved (log entry 6). -/
opaque font : Font

/-- `PALETTE`, OPEN (92_eei_decisions D42): a free value. "No rule of the core reads it" (46_display_device R257; log
entry 7). -/
opaque palette : String → Option Colour

end Config
end Sys2Proof
end

