-- ==== Sys2Proof/Syntax.lean ====
section
/-! DEFINITION. The instructions of the PMX core: one constructor per row of the opcode map (30_encoding R86), each
with the operand cells of its format (R82), raw: "an operand cell is used as the whole signed 32-bit value it
holds" (R83). -/

namespace Sys2Proof

/-- An instruction with its operand cells. Any 32-bit value may stand in an operand cell (30_encoding R90); whether
it is a legal operand is checked when the instruction runs. -/
inductive Instr where
  /-- `HALT` (43_control_transfer R191) -/
  | halt
  /-- `LOAD R1, k` (41_data_movement R130) -/
  | loadR1 (k : Word)
  /-- `LOAD R2, k` (R130) -/
  | loadR2 (k : Word)
  /-- `LOAD R3, k` (R130) -/
  | loadR3 (k : Word)
  /-- `LOAD R4, k` (R130) -/
  | loadR4 (k : Word)
  /-- `LOAD R5, k` (R130) -/
  | loadR5 (k : Word)
  /-- `LOAD R6, k` (R130) -/
  | loadR6 (k : Word)
  /-- `LOAD R7, k` (R130) -/
  | loadR7 (k : Word)
  /-- `LOAD R8, k` (R130) -/
  | loadR8 (k : Word)
  /-- `ADD` (42_arithmetic R162) -/
  | add
  /-- `SUB` (R163) -/
  | sub
  /-- `PUSH Rn`, `n` the operand cell (41_data_movement R131) -/
  | push (n : Word)
  /-- `POP Rn`, `n` the operand cell (R132) -/
  | pop (n : Word)
  /-- `EQUAL` (42_arithmetic R164) -/
  | equal
  /-- `GTH` (R165) -/
  | gth
  /-- `LTH` (R166) -/
  | lth
  /-- `DUP` (41_data_movement R134) -/
  | dup
  /-- `POT k` (R133) -/
  | pot (k : Word)
  /-- `OVR` (R135) -/
  | ovr
  /-- `INC` (42_arithmetic R167) -/
  | inc
  /-- `DCR` (R168) -/
  | dcr
  /-- `MOV f1, f2, a1, a2` (41_data_movement R138, R139) -/
  | mov (f1 f2 a1 a2 : Word)
  /-- `STR` (R137) -/
  | str
  /-- `SQRT` (42_arithmetic R169) -/
  | sqrt
  /-- `ABS` (R170) -/
  | abs
  /-- `POW` (R171) -/
  | pow
  /-- `DVO p` (44_device_io R210) -/
  | dvo (p : Word)
  /-- `DVW p` (R212) -/
  | dvw (p : Word)
  /-- `SWAP`, its two operand cells (41_data_movement R140); under `SWAP_OPERANDS = Stack` nothing reads them (R141) -/
  | swap (k1 k2 : Word)
  /-- `GOTO` (43_control_transfer R194) -/
  | goto
  /-- `JMP` (R196) -/
  | jmp
  /-- `RMV` (41_data_movement R136) -/
  | rmv
  /-- `JNZ` (43_control_transfer R200) -/
  | jnz
  /-- `RPC` (R203) -/
  | rpc
  /-- `RET` (R205) -/
  | ret
deriving DecidableEq, Repr

end Sys2Proof
end

