-- ==== Sys2Proof/Decode.lean ====
section
/-! DEFINITION. Decoding and encoding (30_encoding): the opcode map, the decoder over a list of cells, the encoder,
and the disassembly of R94. -/

namespace Sys2Proof

/-- `OPC`: the opcode value of each row (00_scope R11, 30_encoding R86). -/
abbrev OpcodeMap := Opcode → Word

/-- The opcode map of 30_encoding R86, the default of `OPC`. -/
def opcodeValue : OpcodeMap
  | .halt => 0x00
  | .loadR1 => 0x01
  | .loadR2 => 0x02
  | .loadR3 => 0x03
  | .loadR4 => 0x04
  | .loadR5 => 0x05
  | .loadR6 => 0x06
  | .loadR7 => 0x07
  | .loadR8 => 0x08
  | .add => 0x09
  | .sub => 0x0A
  | .push => 0x0B
  | .pop => 0x0C
  | .equal => 0x0D
  | .gth => 0x0E
  | .lth => 0x0F
  | .dup => 0x10
  | .pot => 0x11
  | .ovr => 0x12
  | .inc => 0x13
  | .dcr => 0x14
  | .mov => 0x15
  | .str => 0x16
  | .sqrt => 0x17
  | .abs => 0x18
  | .pow => 0x19
  | .dvo => 0x1A
  | .dvw => 0x1B
  | .swap => 0x1C
  | .goto => 0x1D
  | .jmp => 0x1E
  | .rmv => 0x1F
  | .jnz => 0x20
  | .rpc => 0x21
  | .ret => 0x22

/-- The rows of the opcode map, in its order (30_encoding R86). -/
def opcodes : List Opcode :=
  [.halt, .loadR1, .loadR2, .loadR3, .loadR4, .loadR5, .loadR6, .loadR7, .loadR8,
   .add, .sub, .push, .pop, .equal, .gth, .lth, .dup, .pot, .ovr, .inc, .dcr,
   .mov, .str, .sqrt, .abs, .pow, .dvo, .dvw, .swap, .goto, .jmp, .rmv, .jnz, .rpc, .ret]

/-- The place of a row in the opcode map (30_encoding R86). -/
def Opcode.index (o : Opcode) : Fin 35 := ⟨o.ctorIdx, by cases o <;> decide⟩

/-- An opcode map written out as data: the values of its rows, in the order of the map. -/
def opcodeTable (opc : OpcodeMap) : Vector Word 35 := ⟨(opcodes.map opc).toArray, rfl⟩

/-- The opcode map that the parameter `OPC` gives (30_encoding R86: "the model takes the map as the parameter `OPC`"). -/
def Params.opcodeMap (c : Params) : OpcodeMap := fun o => c.opc[o.index]

/-- The row whose value equals the whole opcode cell, if there is one (30_encoding R84). -/
def findOpcode (opc : OpcodeMap) (op : Word) : Option Opcode :=
  opcodes.find? fun o => opc o == op

/-- How many operand cells follow the opcode cell (30_encoding R81, R82). -/
def operandCells : Opcode → Nat
  | .loadR1 | .loadR2 | .loadR3 | .loadR4 | .loadR5 | .loadR6 | .loadR7 | .loadR8
  | .push | .pop | .pot | .dvo | .dvw => 1
  | .swap => 2
  | .mov => 4
  | .halt | .add | .sub | .equal | .gth | .lth | .dup | .ovr | .inc | .dcr | .str | .sqrt | .abs | .pow
  | .goto | .jmp | .rmv | .jnz | .rpc | .ret => 0

/-- The instruction of a row with the operand cells `ks`, in address order (30_encoding R82). A cell that is not in
`ks` counts as 0; the decoder hands over exactly `operandCells` of them. -/
def assemble (o : Opcode) (ks : List Word) : Instr :=
  match o with
  | .halt => .halt
  | .loadR1 => .loadR1 (ks.getD 0 0)
  | .loadR2 => .loadR2 (ks.getD 0 0)
  | .loadR3 => .loadR3 (ks.getD 0 0)
  | .loadR4 => .loadR4 (ks.getD 0 0)
  | .loadR5 => .loadR5 (ks.getD 0 0)
  | .loadR6 => .loadR6 (ks.getD 0 0)
  | .loadR7 => .loadR7 (ks.getD 0 0)
  | .loadR8 => .loadR8 (ks.getD 0 0)
  | .add => .add
  | .sub => .sub
  | .push => .push (ks.getD 0 0)
  | .pop => .pop (ks.getD 0 0)
  | .equal => .equal
  | .gth => .gth
  | .lth => .lth
  | .dup => .dup
  | .pot => .pot (ks.getD 0 0)
  | .ovr => .ovr
  | .inc => .inc
  | .dcr => .dcr
  | .mov => .mov (ks.getD 0 0) (ks.getD 1 0) (ks.getD 2 0) (ks.getD 3 0)
  | .str => .str
  | .sqrt => .sqrt
  | .abs => .abs
  | .pow => .pow
  | .dvo => .dvo (ks.getD 0 0)
  | .dvw => .dvw (ks.getD 0 0)
  | .swap => .swap (ks.getD 0 0) (ks.getD 1 0)
  | .goto => .goto
  | .jmp => .jmp
  | .rmv => .rmv
  | .jnz => .jnz
  | .rpc => .rpc
  | .ret => .ret

/-- Why a list of cells holds no instruction at its head. -/
inductive DecodeError where
  /-- the list is empty -/
  | noCells
  /-- the opcode cell's value has no entry in the map (30_encoding R88) -/
  | unknownOpcode (op : Word)
  /-- the list ends inside the operand cells -/
  | truncated (o : Opcode)
deriving DecidableEq, Repr

/-- Decode the instruction at the head of `cells` under the opcode map `opc`, and the cells after it. -/
def decodeWith (opc : OpcodeMap) : List Word → Except DecodeError (Instr × List Word)
  | [] => .error .noCells
  | op :: rest =>
    match findOpcode opc op with
    | none => .error (.unknownOpcode op)
    | some o =>
      if rest.length < operandCells o then .error (.truncated o)
      else .ok (assemble o (rest.take (operandCells o)), rest.drop (operandCells o))

/-- Decode under the default opcode map (30_encoding R84, R86). -/
def decode (cells : List Word) : Except DecodeError (Instr × List Word) :=
  decodeWith opcodeValue cells

/-- The row an instruction belongs to. -/
def Instr.opcode : Instr → Opcode
  | .halt => .halt
  | .loadR1 _ => .loadR1
  | .loadR2 _ => .loadR2
  | .loadR3 _ => .loadR3
  | .loadR4 _ => .loadR4
  | .loadR5 _ => .loadR5
  | .loadR6 _ => .loadR6
  | .loadR7 _ => .loadR7
  | .loadR8 _ => .loadR8
  | .add => .add
  | .sub => .sub
  | .push _ => .push
  | .pop _ => .pop
  | .equal => .equal
  | .gth => .gth
  | .lth => .lth
  | .dup => .dup
  | .pot _ => .pot
  | .ovr => .ovr
  | .inc => .inc
  | .dcr => .dcr
  | .mov _ _ _ _ => .mov
  | .str => .str
  | .sqrt => .sqrt
  | .abs => .abs
  | .pow => .pow
  | .dvo _ => .dvo
  | .dvw _ => .dvw
  | .swap _ _ => .swap
  | .goto => .goto
  | .jmp => .jmp
  | .rmv => .rmv
  | .jnz => .jnz
  | .rpc => .rpc
  | .ret => .ret

/-- An instruction's operand cells, in address order (30_encoding R82). -/
def Instr.operands : Instr → List Word
  | .loadR1 k | .loadR2 k | .loadR3 k | .loadR4 k | .loadR5 k | .loadR6 k | .loadR7 k | .loadR8 k
  | .push k | .pop k | .pot k | .dvo k | .dvw k => [k]
  | .swap k1 k2 => [k1, k2]
  | .mov f1 f2 a1 a2 => [f1, f2, a1, a2]
  | .halt | .add | .sub | .equal | .gth | .lth | .dup | .ovr | .inc | .dcr | .str | .sqrt | .abs | .pow
  | .goto | .jmp | .rmv | .jnz | .rpc | .ret => []

/-- The cells of an instruction under the opcode map `opc` (30_encoding R82). -/
def encodeWith (opc : OpcodeMap) (i : Instr) : List Word :=
  opc i.opcode :: i.operands

/-- The cells of an instruction under the default opcode map. -/
def encode (i : Instr) : List Word :=
  encodeWith opcodeValue i

/-- An instruction's width in cells (30_encoding R81). -/
def Instr.width (i : Instr) : Nat :=
  1 + operandCells i.opcode

/-- The `n` cells packed in the number `w`, the first in its lowest 32 bits. -/
def cellsOfNat : Nat → Nat → List Word
  | 0, _ => []
  | n + 1, w => BitVec.ofNat 32 w :: cellsOfNat n (w / 4294967296)

/-- The five cells of the longest instruction (30_encoding R81), of which the lowest `nbits` bits are those of `w`
and the rest are 0. -/
def cellsOfTableWord (nbits w : Nat) : List Word :=
  cellsOfNat 5 (w % 2 ^ nbits)

/-- The instruction the decoder reads from the bits `w` of an opcode-table row. -/
def decodeTableWord (nbits w : Nat) : Option Instr :=
  match decode (cellsOfTableWord nbits w) with
  | .ok (i, _) => some i
  | .error _ => none

/-- The mnemonic of a row as the opcode map spells it (30_encoding R86). -/
def mnemonicText : Opcode → String
  | .halt => "HALT"
  | .loadR1 => "LOAD R1"
  | .loadR2 => "LOAD R2"
  | .loadR3 => "LOAD R3"
  | .loadR4 => "LOAD R4"
  | .loadR5 => "LOAD R5"
  | .loadR6 => "LOAD R6"
  | .loadR7 => "LOAD R7"
  | .loadR8 => "LOAD R8"
  | .add => "ADD"
  | .sub => "SUB"
  | .push => "PUSH"
  | .pop => "POP"
  | .equal => "EQUAL"
  | .gth => "GTH"
  | .lth => "LTH"
  | .dup => "DUP"
  | .pot => "POT"
  | .ovr => "OVR"
  | .inc => "INC"
  | .dcr => "DCR"
  | .mov => "MOV"
  | .str => "STR"
  | .sqrt => "SQRT"
  | .abs => "ABS"
  | .pow => "POW"
  | .dvo => "DVO"
  | .dvw => "DVW"
  | .swap => "SWAP"
  | .goto => "GOTO"
  | .jmp => "JMP"
  | .rmv => "RMV"
  | .jnz => "JNZ"
  | .rpc => "RPC"
  | .ret => "RET"

/-- The text of an operand cell: `R` before a register number, else the signed value (30_encoding R94). -/
def operandText (o : Opcode) (k : Word) : String :=
  match o with
  | .push | .pop | .swap => "R" ++ toString k.toInt
  | _ => toString k.toInt

/-- The disassembly of 30_encoding R94: `LOAD Rn, k`, `PUSH Rk`, `POT k`, `SWAP Rk1, Rk2`, `MOV f1, f2, a1, a2`, and
the mnemonic alone for format F1. -/
def disassemble (i : Instr) : String :=
  let ks := String.intercalate ", " (i.operands.map (operandText i.opcode))
  match i with
  | .loadR1 _ | .loadR2 _ | .loadR3 _ | .loadR4 _ | .loadR5 _ | .loadR6 _ | .loadR7 _ | .loadR8 _ =>
    mnemonicText i.opcode ++ ", " ++ ks
  | _ => if i.operands.isEmpty then mnemonicText i.opcode else mnemonicText i.opcode ++ " " ++ ks

end Sys2Proof
end

