-- ==== Sys2Proof/Machine/Params.lean ====
section
/-! DEFINITION. The values of the parameters that State carries (00_scope R11). -/

namespace Sys2Proof.Machine

/-- The default `CODEMAP`: "the explicit table `1 → A, 2 → B, …, 26 → Z`" (46_display_device R245). `0 → space` is in the
table too, and the scanner never reaches it (90_conflicts C3; log entry 12). -/
def defaultCodemap : List (Word × Glyph) :=
  [(0, .space),
   (1, .a), (2, .b), (3, .c), (4, .d), (5, .e), (6, .f), (7, .g), (8, .h), (9, .i), (10, .j),
   (11, .k), (12, .l), (13, .m), (14, .n), (15, .o), (16, .p), (17, .q), (18, .r), (19, .s), (20, .t),
   (21, .u), (22, .v), (23, .w), (24, .x), (25, .y), (26, .z)]

/-- The values of 00_scope R11 for this hardware. -/
def defaultParams : Params where
  arithOverflow := .wrap
  budgetSource := .stepsField
  swapOperands := .inline
  rasterMode := .compat
  unmappedCodepoint := .blank
  displayClearsPort := false
  scanPoint := .perQuantum
  portStore := .cell
  codemap := defaultCodemap
  opc := opcodeTable opcodeValue

end Sys2Proof.Machine
end

