-- ==== Sys2Proof/Machine/State.lean ====
section
/-! DEFINITION. The state of the PMX core (10_state R30), the faults a program can meet (60_exceptions R270), the reasons
a step of the model can stop, and the machine right after reset (10_state R47). -/

namespace Sys2Proof.Machine

/-- A space of `w`-bit entries by number: the entries that are not 0, as (number, value) pairs. Canonical form: numbers
strictly rising and no value 0, which is what an unlisted number reads as (log entry 1, DESIGN CHOICE, safe). -/
abbrev Store (w : Nat) := List (Nat × BitVec w)

/-- Memory: the cells that are not 0, by address (20_memory R60; reset contents 0, 10_state R47). -/
abbrev Memory := Store 32

/-- One of the two stacks (00_scope R16). -/
inductive StackId where
  | ws | rs
deriving DecidableEq, Repr

/-- The kinds of `ArithmeticFault` (60_exceptions R270). -/
inductive ArithKind where
  | negativeSqrt | negativeExponent | overflow
deriving DecidableEq, Repr

/-- The reasons of `ProgramLoadError` (60_exceptions R270). -/
inductive LoadReason where
  | tooLong | badToken
deriving DecidableEq, Repr

/-- The core's own faults with their information (60_exceptions R270); `pc` is the address of the faulting instruction's
opcode cell. Taking one is a next state (R276; log entry 15). -/
inductive CoreFault where
  /-- fetch of a value not in `OPC` (R271) -/
  | unknownOpcode (pc op : Word)
  /-- `Pop`, `Peek`, `SetTop` on a stack too shallow (R272) -/
  | stackUnderflow (pc : Word) (stack : StackId)
  /-- `Push` on a full stack (R272) -/
  | stackOverflow (pc : Word) (stack : StackId)
  /-- `MemRead`, `MemWrite` outside `[0, N)` (R273) -/
  | memoryFault (pc addr : Word)
  /-- a register number outside 1..8, a port outside 0..255, a `MOV` flag outside 0, 1 (R274) -/
  | illegalOperand (pc value : Word)
  /-- `SQRT`, `POW`, and results out of range under `ARITH_OVERFLOW = Fault` (R275) -/
  | arithmeticFault (pc : Word) (kind : ArithKind)
  /-- the `LOAD` command only (R279); never a halt cause -/
  | programLoadError (reason : LoadReason)
deriving DecidableEq, Repr

/-- The execution mode (10_state R38). -/
inductive Mode where
  | running | halted
deriving DecidableEq, Repr

/-- Why the core is Halted (10_state R39). -/
inductive Cause where
  | none
  | halt (synthesized : Bool)
  | fault (f : CoreFault)
deriving DecidableEq, Repr

/-- The console's output streams (44_device_io R210). -/
inductive Stream where
  | stderr | stdout
deriving DecidableEq, Repr

/-- One record of `TRACE` (40_engine R112, R113). `mnemonic` is the row of the opcode table; `ws` and `rs` are bottom to
top; `display` is the window over the Display Command Region (log entry 16, DESIGN CHOICE, safe). -/
structure TraceRecord where
  pc : Word
  op : Word
  mnemonic : Opcode
  ws : List Word
  rs : List Word
  regs : Vector Word 8
  display : Memory
  synthesized : Bool
deriving DecidableEq, Repr

/-- The host commands (00_scope R8). -/
inductive Command where
  /-- `RESET` (70_reset_and_hazards R290) -/
  | reset
  /-- `LOAD(P)` (R293) -/
  | load (program : List Int)
  /-- `STEP` (40_engine R108) -/
  | step
  /-- `RUN` (R110) -/
  | run
  /-- `SCAN` (45_device_bus R226) -/
  | scan
  /-- `DRAW_STRING(str, x, y, scale, color)` (46_display_device R258; log entry 14) -/
  | drawString (str : List Char) (x y scale color : Int)
deriving DecidableEq, Repr

/-- `STATUS`: the halt state (00_scope R8) and the two counters, which the host reads with it (10_state R45; log entry
18). -/
structure Status where
  mode : Mode
  cause : Cause
  steps : Nat
  stepCount : Nat
deriving DecidableEq, Repr

/-- What a host command returns (00_scope R8, column "result"). -/
inductive Reply where
  /-- nothing: `RESET`, `SCAN`, `DRAW_STRING`, or no command yet -/
  | none
  /-- `ok` of a `LOAD` -/
  | ok
  /-- `ProgramLoadError` of a `LOAD` -/
  | failed (f : CoreFault)
  /-- `STATUS`, of `STEP` and `RUN` -/
  | status (st : Status)
deriving DecidableEq, Repr

/-- The state of the core: the tuple of 10_state R30, then three fields of the model's own. -/
structure State where
  /-- `mem` (20_memory R60) -/
  mem : Memory
  /-- `x[0..7]`, written `R1..R8` (10_state R31) -/
  x : Vector Word 8
  /-- `pc` (R34) -/
  pc : Word
  /-- `WS`, the working stack, top first (R35; log entry 8) -/
  ws : List Word
  /-- `RS`, the return stack, top first (R36; log entry 8) -/
  rs : List Word
  /-- `mode` (R38) -/
  mode : Mode
  /-- `cause` (R39) -/
  cause : Cause
  /-- `steps` (R40) -/
  steps : Nat
  /-- the spec's `step` (R40) -/
  stepCount : Nat
  /-- `dev[0..255]` (R41) -/
  dev : Store 32
  /-- `pix[0 .. PIX_W*PIX_H - 1]` (R42) -/
  pix : Store 12
  /-- `TRACE`, oldest first (R46) -/
  trace : List TraceRecord
  /-- `CONSOLE`, oldest first (R46) -/
  console : List (Stream × Byte)
  /-- the MODEL's: the parameters of 00_scope R11, which no step changes (log entry 2) -/
  params : Params
  /-- the MODEL's: the host commands still to be carried out, the current one first (log entry 3) -/
  pending : List Command
  /-- the MODEL's: the result of the last completed host command (log entry 3) -/
  reply : Reply
deriving DecidableEq, Repr

/-- The reasons a step of the model could stop with a fault: there are none. Every fault of the PMX core is taken, as a
next state (60_exceptions R276), so no step raises this; that is safe (log entry 15). -/
inductive Fault : Type
deriving DecidableEq, Repr

/-- The reasons a step of the model could be refused. -/
inductive Refusal where
  /-- raised by `exec` for an instruction that has no meaning yet: none. Safe: the model stops. -/
  | notModelled (mnemonic : String)
deriving DecidableEq, Repr

/-- The outcome of a step. -/
abbrev Result := Host.Outcome State Fault Refusal

/-- The machine right after reset (10_state R47, 70_reset_and_hazards R290). The streams, `pending` and `reply` are empty
at construction (log entry 5, DESIGN CHOICE). -/
def State.reset : State where
  mem := []
  x := Vector.replicate 8 0
  pc := 0
  ws := []
  rs := []
  mode := .halted
  cause := .none
  steps := 0
  stepCount := 0
  dev := []
  pix := []
  trace := []
  console := []
  params := defaultParams
  pending := []
  reply := .none

end Sys2Proof.Machine
end

