-- ==== Sys2Proof/Machine/Ops.lean ====
section
/-! DEFINITION. The named operations over the state: sparse spaces, the primitives of 00_scope R14 to R18 (memory, stacks,
registers, ports, console), taking a fault (60_exceptions R276), retiring (40_engine R105) and the effect of `HALT`. -/

namespace Sys2Proof.Machine

/-! ## Sparse spaces -/

/-- The entry numbered `a`; an unlisted entry reads as 0 (10_state R47). -/
def readCell {w : Nat} : Store w → Nat → BitVec w
  | [], _ => 0
  | (b, v) :: m, a => if a = b then v else readCell m a

/-- The space with the entry numbered `a` set to `v`, in canonical form again. -/
def writeCell {w : Nat} : Store w → Nat → BitVec w → Store w
  | [], a, v => if v = 0 then [] else [(a, v)]
  | (b, u) :: m, a, v =>
    if a < b then if v = 0 then (b, u) :: m else (a, v) :: (b, u) :: m
    else if a = b then if v = 0 then m else (a, v) :: m
    else (b, u) :: writeCell m a v

/-- The space with every entry below `n` set to 0. -/
def zeroBelow {w : Nat} (n : Nat) (m : Store w) : Store w :=
  m.filter fun c => decide (n ≤ c.1)

/-- The canonical form: numbers strictly rising, no entry 0 (log entry 1). -/
abbrev Store.canonical {w : Nat} (m : Store w) : Prop :=
  m.Pairwise (fun c d => c.1 < d.1) ∧ ∀ c ∈ m, c.2 ≠ 0

/-- Every listed entry has a number below `n`. -/
abbrev Store.within {w : Nat} (n : Nat) (m : Store w) : Prop :=
  ∀ c ∈ m, c.1 < n

/-- Memory in its canonical form, listing only cells that exist (20_memory R60). -/
abbrev Memory.wf (m : Memory) : Prop :=
  Store.canonical m ∧ Store.within Config.memCells m

/-! ## Updates, one field each -/

/-- Set `mem`. -/
def State.setMem (s : State) (m : Memory) : State := { s with mem := m }

/-- Set `x[i]` (00_scope R14). -/
def State.setReg (s : State) (i : Fin 8) (v : Word) : State := { s with x := s.x.set i v }

/-- Set `pc` (00_scope R18). -/
def State.setPc (s : State) (v : Word) : State := { s with pc := v }

/-- Set the working stack. -/
def State.setWs (s : State) (l : List Word) : State := { s with ws := l }

/-- Set the return stack. -/
def State.setRs (s : State) (l : List Word) : State := { s with rs := l }

/-- Set `mode` to `Halted`, and the halt cause (10_state R38, R39). -/
def State.stop (s : State) (c : Cause) : State := { s with mode := .halted, cause := c }

/-- Set the counter `step`. -/
def State.setStepCount (s : State) (n : Nat) : State := { s with stepCount := n }

/-- Set the port table. -/
def State.setDev (s : State) (d : Store 32) : State := { s with dev := d }

/-- Set the pixel buffer. -/
def State.setPix (s : State) (p : Store 12) : State := { s with pix := p }

/-- Append a record to `TRACE` (10_state R46). -/
def State.addTrace (s : State) (r : TraceRecord) : State := { s with trace := s.trace ++ [r] }

/-- Append a byte to `CONSOLE` (00_scope R17, `Emit`). -/
def State.emit (s : State) (k : Stream) (b : Byte) : State := { s with console := s.console ++ [(k, b)] }

/-- Set the model's record of the host: the commands still to come and the last result. -/
def State.setHost (s : State) (cs : List Command) (r : Reply) : State := { s with pending := cs, reply := r }

/-- `x[i]` (00_scope R14). -/
def State.reg (s : State) (i : Fin 8) : Word := s.x[i]

/-- One of the stacks, top first. -/
def State.stack (s : State) : StackId → List Word
  | .ws => s.ws
  | .rs => s.rs

/-- Set one of the stacks. -/
def State.setStack (s : State) (k : StackId) (l : List Word) : State :=
  match k with
  | .ws => s.setWs l
  | .rs => s.setRs l

/-! ## Memory (00_scope R15, 20_memory R63) -/

/-- `addr` is a cell address: `0 ≤ addr < N`. -/
def inMemory (addr : Word) : Bool :=
  decide (0 ≤ addr.toInt ∧ addr.toInt < Config.memCells)

/-- `MemRead(addr, 1)`. -/
def memRead (s : State) (addr : Word) : Except CoreFault Word :=
  if inMemory addr then .ok (readCell s.mem addr.toNat) else .error (.memoryFault s.pc addr)

/-- `MemWrite(addr, 1, v)`. -/
def memWrite (s : State) (addr v : Word) : Except CoreFault State :=
  if inMemory addr then .ok (s.setMem (writeCell s.mem addr.toNat v)) else .error (.memoryFault s.pc addr)

/-! ## Stacks (00_scope R16) -/

/-- `CAP(S)` (00_scope R11). -/
def stackCap : StackId → Nat
  | .ws => Config.wsCap
  | .rs => Config.rsCap

/-- `Push(S, v)`. A stack at its capacity overflows (10_state R35: "at/above capacity"). -/
def push (k : StackId) (s : State) (v : Word) : Except CoreFault State :=
  if stackCap k ≤ (s.stack k).length then .error (.stackOverflow s.pc k)
  else .ok (s.setStack k (v :: s.stack k))

/-- `Pop(S)`: the top, and the state without it. -/
def pop (k : StackId) (s : State) : Except CoreFault (Word × State) :=
  match s.stack k with
  | [] => .error (.stackUnderflow s.pc k)
  | v :: l => .ok (v, s.setStack k l)

/-- `Peek(S, n)`: the entry `n` places below the top. -/
def peek (k : StackId) (s : State) (n : Nat) : Except CoreFault Word :=
  match (s.stack k)[n]? with
  | none => .error (.stackUnderflow s.pc k)
  | some v => .ok v

/-- `SetTop(S, v)`. -/
def setTop (k : StackId) (s : State) (v : Word) : Except CoreFault State :=
  match s.stack k with
  | [] => .error (.stackUnderflow s.pc k)
  | _ :: l => .ok (s.setStack k (v :: l))

/-! ## Ports (00_scope R17) -/

/-- The port a port operand names; `IllegalOperand` unless `0 ≤ p ≤ 255`. -/
def portIndex (s : State) (p : Word) : Except CoreFault Nat :=
  if 0 ≤ p.toInt ∧ p.toInt ≤ 255 then .ok p.toNat else .error (.illegalOperand s.pc p)

/-- `PortRead(p)` of a checked port. -/
def portRead (s : State) (p : Nat) : Word := readCell s.dev p

/-- `PortWrite(p, v)` of a checked port. -/
def portWrite (s : State) (p : Nat) (v : Word) : State := s.setDev (writeCell s.dev p v)

/-! ## Control (00_scope R18) -/

/-- `pc <- pc + n`, modulo 2^32 (log entry 17). -/
def State.advance (s : State) (n : Nat) : State := s.setPc (s.pc + BitVec.ofNat 32 n)

/-- The window over the Display Command Region (00_scope R8). -/
def displayWindow (s : State) : Memory := zeroBelow Config.displayBase s.mem

/-- `STATUS`, read from a state (00_scope R8, 10_state R45). -/
def status (s : State) : Status where
  mode := s.mode
  cause := s.cause
  steps := s.steps
  stepCount := s.stepCount

/-- A fault's code (60_exceptions R270). -/
def faultCode : CoreFault → Nat
  | .unknownOpcode _ _ => 1
  | .stackUnderflow _ _ => 2
  | .stackOverflow _ _ => 3
  | .memoryFault _ _ => 4
  | .illegalOperand _ _ => 5
  | .arithmeticFault _ _ => 6
  | .programLoadError _ => 7

/-- The record `TRACE` gains when the row `o` at `pc` has retired into `t` (40_engine R112): `op` is `OPC` of the row, which
is the value fetched (`findOpcode_value`), and for a synthesized `HALT` what R113 says. -/
def traceRecord (o : Opcode) (pc : Word) (synthesized : Bool) (t : State) : TraceRecord where
  pc := pc
  op := t.params.opcodeMap o
  mnemonic := o
  ws := t.ws.reverse
  rs := t.rs.reverse
  regs := t.x
  display := displayWindow t
  synthesized := synthesized

/-- TAKING A FAULT (60_exceptions R276): every write of the instruction is discarded, so only `mode` and `cause` of the
state `s` before it change. No state is saved elsewhere, and there is no return from a fault (R280). -/
def takeFault (f : CoreFault) (s : State) : State := s.stop (.fault f)

/-- Retire (40_engine R105): the instruction's writes, made in `t`, commit, and one trace record is appended. -/
def retire (i : Instr) (s t : State) : State := t.addTrace (traceRecord i.opcode s.pc false t)

/-- How a handler ends (40_engine R100, R105): without a `raise` it retires, with one the fault is taken. -/
def commit (i : Instr) (s : State) (r : Except CoreFault State) : Result :=
  match r with
  | .ok t => .next (retire i s t)
  | .error f => .next (takeFault f s)

/-- `HaltEffect(synthesized)` (43_control_transfer R191). -/
def haltEffect (synthesized : Bool) (s : State) : State :=
  ((((s.setPc 0).setWs []).setRs []).setMem (zeroBelow Config.displayBase s.mem)).stop (.halt synthesized)

end Sys2Proof.Machine
end

