-- ==== Sys2Proof/Machine/Display.lean ====
section
/-! DEFINITION. The display device (46_display_device R240 to R259): the command scanner, the glyph rasterizer and the
text convenience. The font is an argument; the machine runs with `Config.font` (92_eei_decisions D42, log entry 6). -/

namespace Sys2Proof.Machine

/-! ## Pixels -/

/-- The index of the pixel that `PutPixel(x, y, scale, i, j, _)` writes, or none where it falls outside the buffer and
is dropped (R248, R249, R251). All arithmetic is on mathematical integers (R247). -/
def pixelIndex (mode : RasterMode) (x y scale i j : Int) : Option Nat :=
  match mode with
  | .compat =>
    let idx := (x * scale + i) * Config.pixW + (y * scale + j)
    if 0 ≤ idx ∧ idx < Config.pixW * Config.pixH then some idx.toNat else none
  | .rowMajor =>
    let row := y * scale + i
    let col := x * scale + j
    if 0 ≤ row ∧ row < Config.pixH ∧ 0 ≤ col ∧ col < Config.pixW then some (row * Config.pixW + col).toNat else none

/-- `PutPixel(x, y, scale, i, j, color)` (R248 to R251). -/
def putPixel (mode : RasterMode) (x y scale i j : Int) (color : Colour) (pix : Store 12) : Store 12 :=
  match pixelIndex mode x y scale i j with
  | some k => writeCell pix k color
  | none => pix

/-- The font bit under block position `(i, j)` of a glyph drawn at `scale` (R247). -/
def fontBit (font : Font) (glyph : Glyph) (scale i j : Nat) : Bool :=
  font glyph (i / scale) (j / scale)

/-- Row `i` of a glyph's block, over every column (R247). -/
def rasterizeRow (font : Font) (mode : RasterMode) (glyph : Glyph) (x y : Int) (scale : Nat) (color : Colour) (i : Nat)
    (pix : Store 12) : Store 12 :=
  (List.range (Config.glyphW * scale)).foldl
    (fun p j => if fontBit font glyph scale i j then putPixel mode x y scale i j color p else p) pix

/-- `Rasterize(glyph, x, y, scale, color)` (R247); nothing is drawn when `scale ≤ 0` (R254). -/
def rasterize (font : Font) (mode : RasterMode) (glyph : Glyph) (x y scale : Int) (color : Colour) (pix : Store 12) :
    Store 12 :=
  if scale ≤ 0 then pix
  else (List.range (Config.glyphH * scale.toNat)).foldl
    (fun p i => rasterizeRow font mode glyph x y scale.toNat color i p) pix

/-! ## The command scanner -/

/-- `CODEMAP(cp)` (R245). -/
def codemapGlyph (t : List (Word × Glyph)) (cp : Word) : Option Glyph :=
  (t.find? fun e => e.1 == cp).map fun e => e.2

/-- The write-back of a processed slot: `x + 1` and `y + 1`, wrapped (R252). -/
def writeBack (mem : Memory) (a : Nat) : Memory :=
  writeCell (writeCell mem (a + 1) (readCell mem (a + 1) + 1)) (a + 2) (readCell mem (a + 2) + 1)

/-- Drawing the record at `a` with glyph `glyph` (R244, R247, R250). -/
def drawSlot (font : Font) (mode : RasterMode) (glyph : Glyph) (mem : Memory) (a : Nat) (pix : Store 12) : Store 12 :=
  rasterize font mode glyph (readCell mem (a + 1)).toInt (readCell mem (a + 2)).toInt (readCell mem (a + 3)).toInt
    ((readCell mem (a + 4)).setWidth 12) pix

/-- The loop of `DisplayFrame` over at most `n` slots from address `a` (R240, R242). A zero codepoint ends it (R243); so
does a codepoint without a glyph under `UNMAPPED_CODEPOINT = Stop`, and under `Blank` that slot draws nothing
(R246). -/
def scanSlots (font : Font) (c : Params) : Nat → Nat → Memory → Store 12 → Memory × Store 12
  | 0, _, mem, pix => (mem, pix)
  | n + 1, a, mem, pix =>
    if readCell mem a = 0 then (mem, pix)
    else match codemapGlyph c.codemap (readCell mem a), c.unmappedCodepoint with
      | some glyph, _ =>
        scanSlots font c n (a + Config.recordCells) (writeBack mem a) (drawSlot font c.rasterMode glyph mem a pix)
      | none, .blank => scanSlots font c n (a + Config.recordCells) (writeBack mem a) pix
      | none, .stop => (mem, pix)

/-- The number of slots of the Display Command Region: the loop of `DisplayFrame` runs while `s + 5 ≤ N` (R255). -/
def displaySlots : Nat := Config.displayCells / Config.recordCells

/-- `DisplayFrame(p)` (R240): clear the pixel buffer (R241), scan the region, and clear the port when
`DISPLAY_CLEARS_PORT` (45_device_bus R229). -/
def displayFrame (font : Font) (p : Nat) (s : State) : State :=
  let r := scanSlots font s.params displaySlots Config.displayBase s.mem []
  let t := (s.setMem r.1).setPix r.2
  if s.params.displayClearsPort then portWrite t p 0 else t

/-! ## Text -/

/-- `glyph(ch)` of a letter `A`..`Z`; none for the space and every other character (R258, R259). -/
def letterGlyph : Char → Option Glyph
  | 'A' => some .a
  | 'B' => some .b
  | 'C' => some .c
  | 'D' => some .d
  | 'E' => some .e
  | 'F' => some .f
  | 'G' => some .g
  | 'H' => some .h
  | 'I' => some .i
  | 'J' => some .j
  | 'K' => some .k
  | 'L' => some .l
  | 'M' => some .m
  | 'N' => some .n
  | 'O' => some .o
  | 'P' => some .p
  | 'Q' => some .q
  | 'R' => some .r
  | 'S' => some .s
  | 'T' => some .t
  | 'U' => some .u
  | 'V' => some .v
  | 'W' => some .w
  | 'X' => some .x
  | 'Y' => some .y
  | 'Z' => some .z
  | _ => none

/-- The characters of `DRAW_STRING` from origin `x` on; each advances the origin by the pitch (R258, R259). -/
def drawChars (font : Font) (mode : RasterMode) : List Char → Int → Int → Int → Colour → Store 12 → Store 12
  | [], _, _, _, _, pix => pix
  | ch :: rest, x, y, scale, color, pix =>
    let pix' := match letterGlyph ch with
      | some glyph => rasterize font mode glyph x y scale color pix
      | none => pix
    drawChars font mode rest (x + Config.textPitch) y scale color pix'

/-- `DRAW_STRING(str, x, y, scale, color)` (R258): it draws into `pix` without clearing it. -/
def drawString (font : Font) (str : List Char) (x y scale color : Int) (s : State) : State :=
  s.setPix (drawChars font s.params.rasterMode str x y scale (BitVec.ofInt 12 color) s.pix)

end Sys2Proof.Machine
end

