-- ==== Sys2Proof/Machine/Bus.lean ====
section
/-! DEFINITION. The device bus (45_device_bus R220 to R234): trigger, class, scan and dispatch. -/

namespace Sys2Proof.Machine

/-- Port `p` is triggered: it holds exactly `TRIGGER_VALUE` (R221). -/
def triggered (s : State) (p : Nat) : Bool := portRead s p == Config.triggerValue

/-- `class(p) = p[7:4]` (R222). -/
def portClass (p : Nat) : Nat := p / 16 % 16

/-- `subop(p) = p[3:0]` (R222); it selects nothing (R228). -/
def portSubop (p : Nat) : Nat := p % 16

/-- What the scan does when it reaches port `p` (R226): only the display class has a handler (R223, R230). -/
def scanPort (font : Font) (s : State) (p : Nat) : State :=
  if triggered s p && portClass p == Config.displayClass then displayFrame font p s else s

/-- `SCAN`: every port in ascending order, each tested when the loop reaches it (R226). -/
def scan (font : Font) (s : State) : State :=
  (List.range Config.numPorts).foldl (scanPort font) s

end Sys2Proof.Machine
end

