-- ==== Sys2Proof/Machine/Flags.lean ====
section
/-! DEFINITION. What other machines keep in flags. "The core has no flags, condition codes or predicates" (10_state R44):
a comparison pushes its result, and overflow is handled by `Arith` (42_arithmetic R161). -/

namespace Sys2Proof.Machine

/-- `wrap32(v)` (00_scope R13). -/
def wrap32 (v : Int) : Word := BitVec.ofInt 32 v

/-- `v` is a cell value: `-2^31 ≤ v ≤ 2^31 - 1` (00_scope R13). -/
def fitsCell (v : Int) : Bool := decide (-2147483648 ≤ v ∧ v ≤ 2147483647)

/-- `Arith(v)` (42_arithmetic R161). -/
def arith (s : State) (v : Int) : Except CoreFault Word :=
  match s.params.arithOverflow with
  | .wrap => .ok (wrap32 v)
  | .fault => if fitsCell v then .ok (wrap32 v) else .error (.arithmeticFault s.pc .overflow)

/-- The inverted boolean a comparison pushes: 0 for true, 1 for false (42_arithmetic R164). -/
def invertedBool (c : Bool) : Word := if c then 0 else 1

/-- `isqrt` by its bits: from `r`, try to add `2^n, …, 2, 1`, keeping the square at most `a`. -/
def isqrtFrom (a : Nat) : Nat → Nat → Nat
  | 0, r => r
  | n + 1, r => if (r + 2 ^ n) * (r + 2 ^ n) ≤ a then isqrtFrom a n (r + 2 ^ n) else isqrtFrom a n r

/-- `isqrt(a)`: the largest `r` with `r*r ≤ a` (42_arithmetic R169); 16 bits are enough below 2^32
(Laws: `isqrt_spec`). -/
def isqrt (a : Nat) : Nat := isqrtFrom a 16 0

/-- `a ^ b` modulo 2^32 by repeated squaring, for `b < 2^n` (Laws: `powFrom_eq`). -/
def powFrom (a : Word) : Nat → Nat → Word
  | 0, _ => 1
  | n + 1, b => (if b % 2 = 1 then a else 1) * powFrom (a * a) n (b / 2)

/-- The exact power `a ^ b` is a cell value. With `|a| ≥ 2` it is not one for any `b > 31`. -/
def powFits (a : Int) (b : Nat) : Bool :=
  decide (a.natAbs ≤ 1) || (decide (b ≤ 31) && fitsCell (a ^ b))

/-- `Arith(a ^ b)` for `0 ≤ b` (42_arithmetic R171), without computing a power that does not fit (log entry 11,
DEDUCED, safe: Laws proves `powArith_eq`, that this is `arith s (a ^ b)`). -/
def powArith (s : State) (a b : Word) : Except CoreFault Word :=
  match s.params.arithOverflow with
  | .wrap => .ok (powFrom a 32 b.toNat)
  | .fault => if powFits a.toInt b.toNat then .ok (powFrom a 32 b.toNat)
      else .error (.arithmeticFault s.pc .overflow)

end Sys2Proof.Machine
end

