-- ==== Sys2Proof/Machine/Operands.lean ====
section
/-! DEFINITION. The operand forms: register numbers (00_scope R14), `MOV`'s flagged operands (41_data_movement R138),
`SWAP`'s two readings (R140, R141), and the operands popped from the working stack. -/

namespace Sys2Proof.Machine

/-- `Reg(n)`: the slot `n - 1` when `1 ≤ n ≤ 8`, else `IllegalOperand` (00_scope R14). -/
def regIndex (s : State) (n : Word) : Except CoreFault (Fin 8) :=
  if 1 ≤ n.toInt ∧ n.toInt ≤ 8 then .ok (Fin.ofNat 8 (n.toNat - 1)) else .error (.illegalOperand s.pc n)

/-- The two kinds of a `MOV` operand (41_data_movement R138). -/
inductive MovMode where
  | register | memory
deriving DecidableEq, Repr

/-- `MOV_LAYOUT`: flag 0 is register, flag 1 is memory, any other raises `IllegalOperand` (41_data_movement R138). -/
def movMode (s : State) (f : Word) : Except CoreFault MovMode :=
  if f = 0 then .ok .register else if f = 1 then .ok .memory else .error (.illegalOperand s.pc f)

/-- The value of `MOV`'s source operand (41_data_movement R139). -/
def movSource (s : State) (m : MovMode) (a : Word) : Except CoreFault Word :=
  match m with
  | .register => do
    let i ← regIndex s a
    return s.reg i
  | .memory => memRead s a

/-- Writing `MOV`'s destination operand (41_data_movement R139). -/
def movDest (s : State) (m : MovMode) (a v : Word) : Except CoreFault State :=
  match m with
  | .register => do
    let i ← regIndex s a
    return s.setReg i v
  | .memory => memWrite s a v

/-- The register numbers of `SWAP`: its operand cells under `Inline`, popped under `Stack` (41_data_movement R140, R141). -/
def swapNumbers (s : State) (k1 k2 : Word) : Except CoreFault (Word × Word × State) :=
  match s.params.swapOperands with
  | .inline => .ok (k1, k2, s)
  | .stack => do
    let (n1, s1) ← pop .ws s
    let (n2, s2) ← pop .ws s1
    return (n1, n2, s2)

/-- The operands `a` (popped first) and `b` (popped second) of a two-operand instruction (00_scope R16). -/
def popTwo (s : State) : Except CoreFault (Word × Word × State) := do
  let (a, s1) ← pop .ws s
  let (b, s2) ← pop .ws s1
  return (a, b, s2)

/-- What a port keeps of the value `DVW` writes (10_state R41): `zext_8(v)` under `Byte`. -/
def portValue (s : State) (v : Word) : Word :=
  match s.params.portStore with
  | .cell => v
  | .byte => (v.setWidth 8).setWidth 32

end Sys2Proof.Machine
end

