-- ==== Sys2Proof/Machine/Arithmetic.lean ====
section
/-! DEFINITION. The arithmetic and comparison instructions (42_arithmetic R160 to R171). Operands are read as signed
integers, the result is computed exactly and narrowed by `Arith` (R160). -/

namespace Sys2Proof.Machine

/-- The shape of `ADD` and `SUB`: pop `a`, `b`, push `Arith(f a b)`. -/
def binaryArith (f : Int → Int → Int) (s : State) : Except CoreFault State := do
  let (a, b, t) ← popTwo s
  let r ← arith s (f a.toInt b.toInt)
  let u ← push .ws t r
  return u.advance 1

/-- The shape of the comparisons: pop `a`, `b`, push 0 if `c a b`, else 1. -/
def comparison (c : Int → Int → Bool) (s : State) : Except CoreFault State := do
  let (a, b, t) ← popTwo s
  let u ← push .ws t (invertedBool (c a.toInt b.toInt))
  return u.advance 1

/-- The shape of `INC` and `DCR`: replace the top `v` by `Arith(f v)`. -/
def changeTop (f : Int → Int) (s : State) : Except CoreFault State := do
  let v ← peek .ws s 0
  let r ← arith s (f v.toInt)
  let u ← setTop .ws s r
  return u.advance 1

/-- `ADD` (R162). -/
def execAdd (s : State) : Result := commit .add s (binaryArith (fun a b => a + b) s)

/-- `SUB` (R163): the top minus the one below. -/
def execSub (s : State) : Result := commit .sub s (binaryArith (fun a b => a - b) s)

/-- `EQUAL` (R164). -/
def execEqual (s : State) : Result := commit .equal s (comparison (fun a b => decide (a = b)) s)

/-- `GTH` (R165). -/
def execGth (s : State) : Result := commit .gth s (comparison (fun a b => decide (a > b)) s)

/-- `LTH` (R166). -/
def execLth (s : State) : Result := commit .lth s (comparison (fun a b => decide (a < b)) s)

/-- `INC` (R167). -/
def execInc (s : State) : Result := commit .inc s (changeTop (fun v => v + 1) s)

/-- `DCR` (R168). -/
def execDcr (s : State) : Result := commit .dcr s (changeTop (fun v => v - 1) s)

/-- `SQRT` (R169). -/
def execSqrt (s : State) : Result :=
  commit .sqrt s do
    let (a, t) ← pop .ws s
    if a.toInt < 0 then .error (.arithmeticFault s.pc .negativeSqrt) else do
      let u ← push .ws t (wrap32 (isqrt a.toNat))
      return u.advance 1

/-- `ABS` (R170). -/
def execAbs (s : State) : Result :=
  commit .abs s do
    let (a, t) ← pop .ws s
    let r ← arith s a.toInt.natAbs
    let u ← push .ws t r
    return u.advance 1

/-- `POW` (R171): the base is popped first. -/
def execPow (s : State) : Result :=
  commit .pow s do
    let (a, b, t) ← popTwo s
    if b.toInt < 0 then .error (.arithmeticFault s.pc .negativeExponent) else do
      let r ← powArith s a b
      let u ← push .ws t r
      return u.advance 1

end Sys2Proof.Machine
end

