-- ==== Sys2Proof/Machine/ControlTransfer.lean ====
section
/-! DEFINITION. The control transfer instructions (43_control_transfer R190 to R205). A jump does not check its target
(R190). -/

namespace Sys2Proof.Machine

/-- Pop the target and set `pc`: the `JMP` step that `JMP`, `GOTO` and `JNZ` share (R196). -/
def jumpToTop (s : State) : Except CoreFault State := do
  let (target, t) ← pop .ws s
  return t.setPc target

/-- `HALT` (R191). -/
def execHalt (s : State) : Result := commit .halt s (.ok (haltEffect false s))

/-- `GOTO` (R194): push the return address, `OVR`, then `JMP`, each with its own checks. -/
def execGoto (s : State) : Result :=
  commit .goto s do
    let t ← push .ws s (s.pc + 1)
    let target ← peek .ws t 1
    let u ← push .ws t target
    jumpToTop u

/-- `JMP` (R196). -/
def execJmp (s : State) : Result := commit .jmp s (jumpToTop s)

/-- `JNZ` (R200): the target is popped only when the branch is taken. -/
def execJnz (s : State) : Result :=
  commit .jnz s do
    let (c, t) ← pop .ws s
    if c ≠ 0 then jumpToTop t else return t.advance 1

/-- `RPC` (R203): it pushes its own address. -/
def execRpc (s : State) : Result :=
  commit .rpc s do
    let t ← push .ws s s.pc
    return t.advance 1

/-- `RET` (R205): move the top of the working stack to the return stack. -/
def execRet (s : State) : Result :=
  commit .ret s do
    let (v, t) ← pop .ws s
    let u ← push .rs t v
    return u.advance 1

end Sys2Proof.Machine
end

