-- ==== Sys2Proof/Machine/DataMovement.lean ====
section
/-! DEFINITION. The data movement instructions (41_data_movement R130 to R141). -/

namespace Sys2Proof.Machine

/-- `x[i] <- k`, then `pc <- pc + 2`: what the eight `LOAD Rn` share (R130). -/
def loadImmediate (s : State) (i : Fin 8) (k : Word) : Except CoreFault State :=
  .ok ((s.setReg i k).advance 2)

/-- `LOAD R1, k` (R130). -/
def execLoadR1 (k : Word) (s : State) : Result := commit (.loadR1 k) s (loadImmediate s 0 k)

/-- `LOAD R2, k` (R130). -/
def execLoadR2 (k : Word) (s : State) : Result := commit (.loadR2 k) s (loadImmediate s 1 k)

/-- `LOAD R3, k` (R130). -/
def execLoadR3 (k : Word) (s : State) : Result := commit (.loadR3 k) s (loadImmediate s 2 k)

/-- `LOAD R4, k` (R130). -/
def execLoadR4 (k : Word) (s : State) : Result := commit (.loadR4 k) s (loadImmediate s 3 k)

/-- `LOAD R5, k` (R130). -/
def execLoadR5 (k : Word) (s : State) : Result := commit (.loadR5 k) s (loadImmediate s 4 k)

/-- `LOAD R6, k` (R130). -/
def execLoadR6 (k : Word) (s : State) : Result := commit (.loadR6 k) s (loadImmediate s 5 k)

/-- `LOAD R7, k` (R130). -/
def execLoadR7 (k : Word) (s : State) : Result := commit (.loadR7 k) s (loadImmediate s 6 k)

/-- `LOAD R8, k` (R130); it overwrites the loader's count (10_state R32). -/
def execLoadR8 (k : Word) (s : State) : Result := commit (.loadR8 k) s (loadImmediate s 7 k)

/-- `PUSH Rn` (R131). -/
def execPush (n : Word) (s : State) : Result :=
  commit (.push n) s do
    let i ← regIndex s n
    let t ← push .ws s (s.reg i)
    return t.advance 2

/-- `POP Rn` (R132): the operand is checked before the pop. -/
def execPop (n : Word) (s : State) : Result :=
  commit (.pop n) s do
    let i ← regIndex s n
    let (v, t) ← pop .ws s
    return (t.setReg i v).advance 2

/-- `POT k` (R133). -/
def execPot (k : Word) (s : State) : Result :=
  commit (.pot k) s do
    let t ← push .ws s k
    return t.advance 2

/-- `DUP` (R134). -/
def execDup (s : State) : Result :=
  commit .dup s do
    let v ← peek .ws s 0
    let t ← push .ws s v
    return t.advance 1

/-- `OVR` (R135). -/
def execOvr (s : State) : Result :=
  commit .ovr s do
    let v ← peek .ws s 1
    let t ← push .ws s v
    return t.advance 1

/-- `RMV` (R136). -/
def execRmv (s : State) : Result :=
  commit .rmv s do
    let (_, t) ← pop .ws s
    return t.advance 1

/-- `STR` (R137): the address is popped first. -/
def execStr (s : State) : Result :=
  commit .str s do
    let (addr, v, t) ← popTwo s
    let u ← memWrite t addr v
    return u.advance 1

/-- `MOV f1, f2, a1, a2` (R139). -/
def execMov (f1 f2 a1 a2 : Word) (s : State) : Result :=
  commit (.mov f1 f2 a1 a2) s do
    let m1 ← movMode s f1
    let m2 ← movMode s f2
    let v ← movSource s m1 a1
    let t ← movDest s m2 a2 v
    return t.advance 5

/-- `SWAP` (R140, R141). -/
def execSwap (k1 k2 : Word) (s : State) : Result :=
  commit (.swap k1 k2) s do
    let (n1, n2, t) ← swapNumbers s k1 k2
    let i ← regIndex s n1
    let j ← regIndex s n2
    return ((t.setReg i (t.reg j)).setReg j (t.reg i)).advance 3

end Sys2Proof.Machine
end

