-- ==== Sys2Proof/Machine/DeviceIo.lean ====
section
/-! DEFINITION. The device I/O instructions (44_device_io R210 to R213). Neither calls a device handler. -/

namespace Sys2Proof.Machine

/-- The console stream a port selects: 24 is stderr, 25 is stdout, no other port has one (R210). -/
def consoleStream (p : Nat) : Option Stream :=
  if p = Config.portStderr then some .stderr
  else if p = Config.portStdout then some .stdout
  else none

/-- `DVO p` (R210): bits 7..0 of the port go to the console stream of port 24 or 25; any other port emits nothing. -/
def execDvo (p : Word) (s : State) : Result :=
  commit (.dvo p) s do
    let i ← portIndex s p
    let v := portRead s i
    match consoleStream i with
    | some k => return (s.emit k (v.setWidth 8)).advance 2
    | none => return s.advance 2

/-- `DVW p` (R212): the port is checked before the pop. -/
def execDvw (p : Word) (s : State) : Result :=
  commit (.dvw p) s do
    let i ← portIndex s p
    let (v, t) ← pop .ws s
    return (portWrite t i (portValue s v)).advance 2

end Sys2Proof.Machine
end

