-- ==== Sys2Proof/Machine/Dispatch.lean ====
section
/-! DEFINITION. The dispatch: one arm per instruction, each a direct call of its meaning (40_engine R102, R104). -/

namespace Sys2Proof.Machine

def exec (i : Instr) (s : State) : Host.Outcome State Fault Refusal :=
  match i with
  | .halt => Sys2Proof.Machine.execHalt s
  | .loadR1 k => Sys2Proof.Machine.execLoadR1 k s
  | .loadR2 k => Sys2Proof.Machine.execLoadR2 k s
  | .loadR3 k => Sys2Proof.Machine.execLoadR3 k s
  | .loadR4 k => Sys2Proof.Machine.execLoadR4 k s
  | .loadR5 k => Sys2Proof.Machine.execLoadR5 k s
  | .loadR6 k => Sys2Proof.Machine.execLoadR6 k s
  | .loadR7 k => Sys2Proof.Machine.execLoadR7 k s
  | .loadR8 k => Sys2Proof.Machine.execLoadR8 k s
  | .add => Sys2Proof.Machine.execAdd s
  | .sub => Sys2Proof.Machine.execSub s
  | .push n => Sys2Proof.Machine.execPush n s
  | .pop n => Sys2Proof.Machine.execPop n s
  | .equal => Sys2Proof.Machine.execEqual s
  | .gth => Sys2Proof.Machine.execGth s
  | .lth => Sys2Proof.Machine.execLth s
  | .dup => Sys2Proof.Machine.execDup s
  | .pot k => Sys2Proof.Machine.execPot k s
  | .ovr => Sys2Proof.Machine.execOvr s
  | .inc => Sys2Proof.Machine.execInc s
  | .dcr => Sys2Proof.Machine.execDcr s
  | .mov f1 f2 a1 a2 => Sys2Proof.Machine.execMov f1 f2 a1 a2 s
  | .str => Sys2Proof.Machine.execStr s
  | .sqrt => Sys2Proof.Machine.execSqrt s
  | .abs => Sys2Proof.Machine.execAbs s
  | .pow => Sys2Proof.Machine.execPow s
  | .dvo p => Sys2Proof.Machine.execDvo p s
  | .dvw p => Sys2Proof.Machine.execDvw p s
  | .swap k1 k2 => Sys2Proof.Machine.execSwap k1 k2 s
  | .goto => Sys2Proof.Machine.execGoto s
  | .jmp => Sys2Proof.Machine.execJmp s
  | .rmv => Sys2Proof.Machine.execRmv s
  | .jnz => Sys2Proof.Machine.execJnz s
  | .rpc => Sys2Proof.Machine.execRpc s
  | .ret => Sys2Proof.Machine.execRet s

end Sys2Proof.Machine
end

