-- ==== Sys2Proof/Machine/Fetch.lean ====
section
/-! DEFINITION. Fetch and decode (40_engine R100 to R104), and placing an instruction's cells. -/

namespace Sys2Proof.Machine

/-- How many operand cells the handler of a row reads: all of them, but none for `SWAP` under `SWAP_OPERANDS = Stack`
(41_data_movement R141; log entry 9). -/
def cellsRead (c : Params) (o : Opcode) : Nat :=
  match o, c.swapOperands with
  | .swap, .stack => 0
  | _, _ => operandCells o

/-- Read the `n` operand cells at `pc + k`, `pc + k + 1`, …; the first out of range raises `MemoryFault` (40_engine
R104). -/
def readOperands (s : State) : Nat → Nat → Except CoreFault (List Word)
  | _, 0 => .ok []
  | k, n + 1 => do
    let v ← memRead s (s.pc + BitVec.ofNat 32 k)
    let vs ← readOperands s (k + 1) n
    return v :: vs

/-- Fetch and decode the instruction at `pc`: the opcode cell (R101), its row under `OPC` (R102, R103), then the operand cells
(R104). Every handler reads its operand cells before anything else, so they are read here (log entry 9). -/
def fetch (s : State) : Except CoreFault Instr := do
  let op ← memRead s s.pc
  match findOpcode s.params.opcodeMap op with
  | none => .error (.unknownOpcode s.pc op)
  | some o => do
    let ks ← readOperands s 1 (cellsRead s.params o)
    return assemble o ks

/-- Store the cells `ks` from address `a` on, those that fall inside memory. -/
def placeCells (m : Memory) : Nat → List Word → Memory
  | _, [] => m
  | a, k :: ks => placeCells (if a < Config.memCells then writeCell m a k else m) (a + 1) ks

/-- Store the cells of an opcode-table word at `pc`. -/
def placeFetchWord (s : State) (nbits w : Nat) : Memory :=
  placeCells s.mem s.pc.toNat (cellsOfTableWord nbits w)

end Sys2Proof.Machine
end

