-- ==== Sys2Proof/Machine/Load.lean ====
section
/-! DEFINITION. `RESET` and `LOAD` (70_reset_and_hazards R290 to R294). -/

namespace Sys2Proof.Machine

/-- `RESET` (R290): the construction state, `TRACE` and `CONSOLE` untouched. The model's own fields stay. -/
def resetCore (s : State) : State :=
  { State.reset with trace := s.trace, console := s.console, params := s.params, pending := s.pending, reply := s.reply }

/-- Memory that holds the values of `p` from address `a` on, and 0 everywhere else. -/
def imageFrom : Nat → List Int → Memory
  | _, [] => []
  | a, v :: p => if wrap32 v = 0 then imageFrom (a + 1) p else (a, wrap32 v) :: imageFrom (a + 1) p

/-- What makes `LOAD(P)` fail, in the order it is tested (R293, R294). -/
def loadProblem (p : List Int) : Option LoadReason :=
  if Config.displayBase < p.length then some .tooLong
  else if p.all fitsCell then none
  else some .badToken

/-- The writes of a `LOAD(P)` that succeeds (R293). -/
def loadProgram (p : List Int) (s : State) : State :=
  { resetCore s with
    mem := imageFrom 0 p
    steps := p.length
    stepCount := 0
    x := (resetCore s).x.set 7 (BitVec.ofNat 32 p.length)
    pc := 0
    mode := .running
    cause := .none }

end Sys2Proof.Machine
end

