-- ==== Sys2Proof/Machine/Commands.lean ====
section
/-! DEFINITION. The execution engine and the host commands (40_engine R100 to R113, 00_scope R8). -/

namespace Sys2Proof.Machine

/-- Continue after a next state; any other outcome stands. -/
def onNext (r : Result) (f : State → State) : Result :=
  match r with
  | .next t => .next (f t)
  | .fault e => .fault e
  | .refused e => .refused e

/-- `Exec()` (40_engine R100): fetch, decode, execute, retire; a fault of the fetch is taken like any other. -/
def execOne (s : State) : Result :=
  match fetch s with
  | .ok i => exec i s
  | .error f => .next (takeFault f s)

/-- After `Exec` on a Running core: it ended in a fault. (A retired `HALT` leaves another cause, every other retired
instruction leaves the core Running.) -/
def faulted (t : State) : Bool :=
  match t.mode, t.cause with
  | .halted, .fault _ => true
  | _, _ => false

/-- The single-step budget, as an integer (40_engine R108, 10_state R32). -/
def budget (s : State) : Int :=
  match s.params.budgetSource with
  | .stepsField => s.steps
  | .r8 => (s.reg 7).toInt

/-- A synthesized `HALT` (40_engine R109, R113): it reads no memory and appends a marked record. -/
def synthesizedHalt (s : State) : State :=
  (haltEffect true s).addTrace (traceRecord .halt s.pc true (haltEffect true s))

/-- `step <- step + 1` if `Exec` retired (40_engine R108). -/
def countRetired (t : State) : State :=
  if faulted t then t else t.setStepCount (t.stepCount + 1)

/-- `STEP()` (40_engine R108). -/
def stepQuantum (s : State) : Result :=
  if s.mode = .halted then .next s
  else if budget s ≤ s.stepCount then .next (synthesizedHalt s)
  else onNext (execOne s) countRetired

/-- The scan that `RUN` makes after a retired instruction under `SCAN_POINT = PerInstruction` (40_engine R110). -/
def scanAfter (t : State) : State :=
  if t.params.scanPoint = .perInstruction ∧ faulted t = false then scan Config.font t else t

/-- The body of the loop of `RUN()` (40_engine R110). -/
def runIteration (s : State) : Result := onNext (execOne s) scanAfter

/-- The current command is done: `cs` are the commands after it, `r` is what it returns. -/
def finish (cs : List Command) (r : Reply) (t : State) : State := t.setHost cs r

/-- The command is done and returns `STATUS`. -/
def finishStatus (cs : List Command) (t : State) : State := finish cs (.status (status t)) t

/-- Carry out the current command `c`, after which `cs` are to come (00_scope R8). Each is one step of the model, but
`RUN`: one step is one turn of its loop, and it stays the current command until the core is Halted (log entry 13). -/
def performCommand (c : Command) (cs : List Command) (s : State) : Result :=
  match c with
  | .reset => .next (finish cs .none (resetCore s))
  | .load p =>
    match loadProblem p with
    | some r => .next (finish cs (.failed (.programLoadError r)) s)
    | none => .next (finish cs .ok (loadProgram p s))
  | .step => onNext (stepQuantum s) (finishStatus cs)
  | .run => if s.mode = .halted then .next (finishStatus cs s) else runIteration s
  | .scan => .next (finish cs .none (scan Config.font s))
  | .drawString str x y scale color => .next (finish cs .none (drawString Config.font str x y scale color s))

/-- One step: the current command, or nothing when the host has sent none ("nothing changes the core's state between
commands", 00_scope R7). -/
def performNext (s : State) : Result :=
  match s.pending with
  | [] => .next s
  | c :: cs => performCommand c cs s

end Sys2Proof.Machine
end

