-- ==== Sys2Proof/Machine/Step.lean ====
section
/-! DEFINITION. One step of the machine, and placing an instruction where the next step fetches it. -/

namespace Sys2Proof.Machine

/-- One step: the current host command (00_scope R8; log entry 3). -/
def step (s : State) : Host.Outcome State Fault Refusal := performNext s

/-- `s` with the instruction of bits `w` at `pc`, the core Running and a `RUN` as the current command, so that the next
step fetches and runs it. It stands for the load of a program (log entry 4). -/
def State.withFetchWord (s : State) (nbits w : Nat) : State :=
  { s with mem := placeFetchWord s nbits w, mode := .running, cause := .none, pending := .run :: s.pending }

end Sys2Proof.Machine
end

