-- ==== Sys2Proof/Safety.lean ====
section
/-! DEFINITION. What claims call a good state and a safe run. -/

namespace Sys2Proof.Machine

/-- Memory is in its canonical form and lists only cells that exist (20_memory R60; log entry 1). -/
abbrev memoryOk (s : State) : Prop := Memory.wf s.mem

/-- Neither stack is deeper than its capacity (10_state R35, R36). -/
abbrev stacksOk (s : State) : Prop := s.ws.length ≤ Config.wsCap ∧ s.rs.length ≤ Config.rsCap

/-- The port table is in canonical form and lists only ports 0..255 (10_state R41). -/
abbrev portsOk (s : State) : Prop := Store.canonical s.dev ∧ Store.within Config.numPorts s.dev

/-- The pixel buffer is in canonical form and lists only its own pixels (10_state R42). -/
abbrev pixelsOk (s : State) : Prop := Store.canonical s.pix ∧ Store.within (Config.pixW * Config.pixH) s.pix

/-- A Running core has no halt cause (10_state R39). -/
abbrev modeOk (s : State) : Prop := s.mode = .running → s.cause = .none

/-- `steps ≤ DISPLAY_BASE`, and `step ≤ steps` when the budget is `steps` (10_state R40). -/
abbrev countersOk (s : State) : Prop :=
  s.steps ≤ Config.displayBase ∧ (s.params.budgetSource = .stepsField → s.stepCount ≤ s.steps)

/-- `OPC` gives its rows different values, all of them bytes, and `CODEMAP` maps a codepoint to one glyph (30_encoding R84,
R85, 46_display_device R245). -/
abbrev paramsOk (s : State) : Prop :=
  Function.Injective s.params.opcodeMap ∧ (∀ o, (s.params.opcodeMap o).toNat ≤ 0xFF) ∧
    (s.params.codemap.map Prod.fst).Nodup

/-- The machine's invariant. -/
abbrev StateInv (s : State) : Prop :=
  memoryOk s ∧ stacksOk s ∧ portsOk s ∧ pixelsOk s ∧ modeOk s ∧ countersOk s ∧ paramsOk s

/-- `k` steps from `s` end in a next state: no step stops with a fault or a refusal of the model. -/
def SafeRun (k : Nat) (s : State) : Prop := ∃ t, Host.Core.run Sys2Proof.core k s = .next t

end Sys2Proof.Machine
end

