-- ==== Sys2Proof/Certificates/Slice0/Obligations.lean ====
section
/-! DEFINITION. The statements for the provers. Each formalises rules of spec/ about the model's `exec`, `step`, decoder,
device bus and display; each docstring names them. -/

namespace Sys2Proof.Claims

open Sys2Proof.Machine

/-- `v` is a cell value (00_scope R13). -/
abbrev InRange (v : Int) : Prop := -2147483648 ≤ v ∧ v ≤ 2147483647

/-- `n` is a register number (00_scope R14). -/
abbrev IsReg (n : Word) : Prop := 1 ≤ n.toInt ∧ n.toInt ≤ 8

/-- The register operand `n` names slot `j`: `Rn` is `x[n-1]` (00_scope R14). -/
abbrev Names (n : Word) (j : Fin 8) : Prop := n.toInt = (j.val : Int) + 1

/-- `p` is a port number (00_scope R17). -/
abbrev IsPort (p : Word) : Prop := 0 ≤ p.toInt ∧ p.toInt ≤ 255

/-- `a` is a cell address (20_memory R63). -/
abbrev IsCell (a : Word) : Prop := 0 ≤ a.toInt ∧ a.toInt < Config.memCells

/-- `m'` reads as `m` but for the cell `a`, which holds `v`. -/
def ReadsWith {w : Nat} (m' m : Store w) (a : Nat) (v : BitVec w) : Prop :=
  ∀ b, readCell m' b = if b = a then v else readCell m b

/-- `i` takes `StackUnderflow(pc, WS)` when the working stack holds fewer than `n` values. -/
def Underflows (i : Instr) (n : Nat) : Prop :=
  ∀ s : State, s.ws.length < n → exec i s = .next (takeFault (.stackUnderflow s.pc .ws) s)

/-- A `STEP` would find the budget not used up; it is `steps` or `R8` (40_engine R108, 10_state R32). -/
abbrev WithinBudget (s : State) : Prop :=
  (s.params.budgetSource = .stepsField ∧ s.stepCount < s.steps) ∨
    (s.params.budgetSource = .r8 ∧ (s.stepCount : Int) < (s.x[7]).toInt)

/-- The core is Halted by a fault (10_state R39). -/
abbrev Faulted (t : State) : Prop := t.mode = .halted ∧ ∃ f, t.cause = .fault f

/-- The next step of a Running core takes `f`: in a `RUN`, and in a `STEP` whose budget is not used up (`pending` and
`reply` are the model's own, log entry 3; what `STATUS` carries, log entry 18). -/
def FaultTaken (s : State) (f : CoreFault) : Prop :=
  (∀ cs, s.pending = .run :: cs → step s = .next { s with mode := .halted, cause := .fault f }) ∧
  (∀ cs, s.pending = .step :: cs → WithinBudget s →
    step s = .next { s with
      mode := .halted, cause := .fault f, pending := cs, reply := .status ⟨.halted, .fault f, s.steps, s.stepCount⟩ })

/-- `Exec()` of an instruction of row `o` takes `MemoryFault(pc, pc+k)` when its operand cell `k` is the first outside
memory, whatever value `OPC` gives the row (40_engine R100, R104). -/
def OperandCellFaults (o : Opcode) (k : Nat) : Prop :=
  ∀ s : State, s.mode = .running → (o = .swap → s.params.swapOperands = .inline) →
    Function.Injective s.params.opcodeMap → IsCell s.pc → readCell s.mem s.pc.toNat = s.params.opcodeMap o →
    (∀ j, 1 ≤ j → j < k → IsCell (s.pc + BitVec.ofNat 32 j)) → ¬ IsCell (s.pc + BitVec.ofNat 32 k) →
    execOne s = .next (takeFault (.memoryFault s.pc (s.pc + BitVec.ofNat 32 k)) s)

/-- The instruction `i` with opcode `op` pops `a`, `b` and pushes `Arith(f a b)` (42_arithmetic R161). -/
def PushesArith (i : Instr) (op : Word) (f : Int → Int → Int) : Prop :=
  encode i = [op] ∧ Underflows i 2 ∧
  (∀ (s : State) a b rest, s.ws = a :: b :: rest → s.ws.length ≤ Config.wsCap →
    (s.params.arithOverflow = .wrap ∨ InRange (f a.toInt b.toInt)) →
    exec i s = .next (retire i s { s with ws := BitVec.ofInt 32 (f a.toInt b.toInt) :: rest, pc := s.pc + 1 })) ∧
  (∀ (s : State) a b rest, s.ws = a :: b :: rest → s.params.arithOverflow = .fault → ¬ InRange (f a.toInt b.toInt) →
    exec i s = .next (takeFault (.arithmeticFault s.pc .overflow) s))

/-- The instruction `i` with opcode `op` pops `a`, `b` and pushes 0 when `c a b`, else 1. -/
def Compares (i : Instr) (op : Word) (c : Int → Int → Prop) : Prop :=
  encode i = [op] ∧ Underflows i 2 ∧
  (∀ (s : State) a b rest, s.ws = a :: b :: rest → s.ws.length ≤ Config.wsCap → c a.toInt b.toInt →
    exec i s = .next (retire i s { s with ws := 0 :: rest, pc := s.pc + 1 })) ∧
  (∀ (s : State) a b rest, s.ws = a :: b :: rest → s.ws.length ≤ Config.wsCap → ¬ c a.toInt b.toInt →
    exec i s = .next (retire i s { s with ws := 1 :: rest, pc := s.pc + 1 }))

/-- The instruction `i` with opcode `op` replaces the top `v` by `Arith(f v)`. -/
def ChangesTop (i : Instr) (op : Word) (f : Int → Int) : Prop :=
  encode i = [op] ∧ Underflows i 1 ∧
  (∀ (s : State) v rest, s.ws = v :: rest → (s.params.arithOverflow = .wrap ∨ InRange (f v.toInt)) →
    exec i s = .next (retire i s { s with ws := BitVec.ofInt 32 (f v.toInt) :: rest, pc := s.pc + 1 })) ∧
  (∀ (s : State) v rest, s.ws = v :: rest → s.params.arithOverflow = .fault → ¬ InRange (f v.toInt) →
    exec i s = .next (takeFault (.arithmeticFault s.pc .overflow) s))

/-- `LOAD Rn`, row `o` with opcode `op`, writes its operand cell to slot `j`. -/
def LoadsInto (i : Word → Instr) (o : Opcode) (op : Word) (j : Fin 8) : Prop :=
  (∀ k, encode (i k) = [op, k]) ∧ OperandCellFaults o 1 ∧
  ∀ (s : State) k, exec (i k) s = .next (retire (i k) s { s with x := s.x.set j k, pc := s.pc + 2 })

/-- The cells `a`, `a + 1`, …, `a + n - 1`. -/
def cellsAt (m : Memory) (a n : Nat) : List Word := (List.range n).map fun k => readCell m (a + k)

/-- The registers an instruction may write in state `s` (10_state R31). -/
def WritesReg (s : State) (j : Fin 8) : Instr → Prop
  | .loadR1 _ => j = 0
  | .loadR2 _ => j = 1
  | .loadR3 _ => j = 2
  | .loadR4 _ => j = 3
  | .loadR5 _ => j = 4
  | .loadR6 _ => j = 5
  | .loadR7 _ => j = 6
  | .loadR8 _ => j = 7
  | .pop n => Names n j
  | .mov _ f2 _ a2 => f2 = 0 ∧ Names a2 j
  | .swap k1 k2 =>
    match s.params.swapOperands with
    | .inline => Names k1 j ∨ Names k2 j
    | .stack => ∃ n1 n2 rest, s.ws = n1 :: n2 :: rest ∧ (Names n1 j ∨ Names n2 j)
  | _ => False

/-- The memory cells an instruction may store to in state `s`: the address `STR` pops, the destination address of a
`MOV` to memory, the Program/Data Region for `HALT`. -/
def StoresTo (s : State) (a : Nat) : Instr → Prop
  | .str => ∃ addr rest, s.ws = addr :: rest ∧ addr.toNat = a
  | .mov _ f2 _ a2 => f2 = 1 ∧ a2.toNat = a
  | .halt => a < Config.displayBase
  | _ => False

/-- The states agree on everything that 40_engine R114 compares. -/
def SameCore (t u : State) : Prop :=
  t.mem = u.mem ∧ t.x = u.x ∧ t.pc = u.pc ∧ t.ws = u.ws ∧ t.rs = u.rs ∧ t.dev = u.dev ∧ t.mode = u.mode ∧
    t.cause = u.cause

/-- The glyph drawn at `(x, y)` with `scale` sets the pixel `k` of the buffer (46_display_device R247 to R251). -/
def Covers (font : Font) (mode : RasterMode) (glyph : Glyph) (x y scale : Int) (k : Nat) : Prop :=
  ∃ i j : Nat, (i : Int) < 5 * scale ∧ (j : Int) < 5 * scale ∧ font glyph (i / scale.toNat) (j / scale.toNat) = true ∧
    match mode with
    | .compat => (k : Int) = (x * scale + i) * 800 + (y * scale + j) ∧ k < 480000
    | .rowMajor =>
      0 ≤ y * scale + i ∧ y * scale + i < 600 ∧ 0 ≤ x * scale + j ∧ x * scale + j < 800 ∧
        (k : Int) = (y * scale + i) * 800 + (x * scale + j)

/-- The glyphs of the letters `A`..`Z`, in order (10_state R43). -/
def glyphsAToZ : List Glyph :=
  [.a, .b, .c, .d, .e, .f, .g, .h, .i, .j, .k, .l, .m, .n, .o, .p, .q, .r, .s, .t, .u, .v, .w, .x, .y, .z]

/-- Slot `k` of the Display Command Region starts here (46_display_device R242). -/
def slotBase (k : Nat) : Nat := 10005760 + 5 * k

/-- The glyph of slot `n`'s record sets the pixel `k` (46_display_device R244, R245). -/
def SlotCovers (font : Font) (c : Params) (m : Memory) (n k : Nat) : Prop :=
  ∃ glyph, (readCell m (slotBase n), glyph) ∈ c.codemap ∧
    Covers font c.rasterMode glyph (readCell m (slotBase n + 1)).toInt (readCell m (slotBase n + 2)).toInt
      (readCell m (slotBase n + 3)).toInt k

/-- The scan goes on past slot `k`: its codepoint is not 0, and it has a glyph or `UNMAPPED_CODEPOINT` is `Blank`
(46_display_device R243, R246). -/
def SlotGoesOn (c : Params) (m : Memory) (k : Nat) : Prop :=
  readCell m (slotBase k) ≠ 0 ∧
    (c.unmappedCodepoint = .blank ∨ ∃ glyph, (readCell m (slotBase k), glyph) ∈ c.codemap)

/-- The scan processes slot `n`: it is a slot of the region, and the scan goes on past it and every slot before it
(46_display_device R242, R243, R255). -/
def Processed (c : Params) (m : Memory) (n : Nat) : Prop := n < 96000 ∧ ∀ j, j ≤ n → SlotGoesOn c m j

end Sys2Proof.Claims

open Sys2Proof Sys2Proof.Machine Sys2Proof.Claims

/-! ## Encoding -/

/-- Decoding an encoded instruction gives it back and leaves the cells after it, for every instruction with every
operand, under every opcode map that gives its rows different values (30_encoding R80, R82, R84). -/
def Obligations.DecodeOfEncodeIsTheInstruction : Prop :=
  ∀ opc : OpcodeMap, Function.Injective opc → ∀ (i : Instr) (rest : List Word),
    decodeWith opc (encodeWith opc i ++ rest) = .ok (i, rest)

/-- Cells that decode are the encoding of what they decode to: one encoding per instruction (30_encoding R84, R91). -/
def Obligations.EncodeOfDecodeIsTheCells : Prop :=
  ∀ cells (i : Instr) rest, decode cells = .ok (i, rest) → cells = encode i ++ rest

/-- The values 0x23 and above and every negative value are unknown opcodes, and no others (30_encoding R84, R88). -/
def Obligations.UnknownOpcodesAreThoseOutsideTheMap : Prop :=
  ∀ op rest, decode (op :: rest) = .error (.unknownOpcode op) ↔ (op.toInt < 0 ∨ 0x22 < op.toInt)

/-- Words written out from 30_encoding R86 and R82 decode to their instructions: one per format and family. -/
def Obligations.WrittenOutWordsDecode : Prop :=
  decode [0x11, 3] = .ok (.pot 3, []) ∧ decode [0x09] = .ok (.add, []) ∧ decode [0x00] = .ok (.halt, []) ∧
  decode [0x08, 7] = .ok (.loadR8 7, []) ∧ decode [0x15, 0, 1, 3, 100] = .ok (.mov 0 1 3 100, []) ∧
  decode [0x1C, 1, 2] = .ok (.swap 1 2, []) ∧ decode [0x1B, 16] = .ok (.dvw 16, []) ∧
  decode [0x22] = .ok (.ret, []) ∧ decode [0x1CF] = .error (.unknownOpcode 0x1CF)

/-! ## Data movement -/

/-- `LOAD Rn`, n = 1..8 (41_data_movement R130). -/
def Obligations.LoadWritesItsRegister : Prop :=
  LoadsInto .loadR1 .loadR1 0x01 0 ∧ LoadsInto .loadR2 .loadR2 0x02 1 ∧ LoadsInto .loadR3 .loadR3 0x03 2 ∧
  LoadsInto .loadR4 .loadR4 0x04 3 ∧ LoadsInto .loadR5 .loadR5 0x05 4 ∧ LoadsInto .loadR6 .loadR6 0x06 5 ∧
  LoadsInto .loadR7 .loadR7 0x07 6 ∧ LoadsInto .loadR8 .loadR8 0x08 7

/-- `PUSH Rn` (41_data_movement R131). -/
def Obligations.PushPushesTheRegister : Prop :=
  (∀ n, encode (.push n) = [0x0B, n]) ∧ OperandCellFaults .push 1 ∧
  (∀ (s : State) n (j : Fin 8), Names n j → s.ws.length < Config.wsCap →
    exec (.push n) s = .next (retire (.push n) s { s with ws := s.x[j] :: s.ws, pc := s.pc + 2 })) ∧
  (∀ (s : State) n, ¬ IsReg n → exec (.push n) s = .next (takeFault (.illegalOperand s.pc n) s)) ∧
  (∀ (s : State) n, IsReg n → s.ws.length = Config.wsCap →
    exec (.push n) s = .next (takeFault (.stackOverflow s.pc .ws) s))

/-- `POP Rn` (41_data_movement R132). -/
def Obligations.PopPopsIntoTheRegister : Prop :=
  (∀ n, encode (.pop n) = [0x0C, n]) ∧ OperandCellFaults .pop 1 ∧
  (∀ (s : State) n (j : Fin 8) v rest, Names n j → s.ws = v :: rest →
    exec (.pop n) s = .next (retire (.pop n) s { s with x := s.x.set j v, ws := rest, pc := s.pc + 2 })) ∧
  (∀ (s : State) n, ¬ IsReg n → exec (.pop n) s = .next (takeFault (.illegalOperand s.pc n) s)) ∧
  (∀ (s : State) n, IsReg n → s.ws = [] → exec (.pop n) s = .next (takeFault (.stackUnderflow s.pc .ws) s))

/-- `POT k` (41_data_movement R133). -/
def Obligations.PotPushesTheLiteral : Prop :=
  (∀ k, encode (.pot k) = [0x11, k]) ∧ OperandCellFaults .pot 1 ∧
  (∀ (s : State) k, s.ws.length < Config.wsCap →
    exec (.pot k) s = .next (retire (.pot k) s { s with ws := k :: s.ws, pc := s.pc + 2 })) ∧
  (∀ (s : State) k, s.ws.length = Config.wsCap →
    exec (.pot k) s = .next (takeFault (.stackOverflow s.pc .ws) s))

/-- `DUP` (41_data_movement R134). -/
def Obligations.DupDuplicatesTheTop : Prop :=
  encode .dup = [0x10] ∧ Underflows .dup 1 ∧
  (∀ (s : State) v rest, s.ws = v :: rest → s.ws.length < Config.wsCap →
    exec .dup s = .next (retire .dup s { s with ws := v :: v :: rest, pc := s.pc + 1 })) ∧
  (∀ s : State, s.ws.length = Config.wsCap → exec .dup s = .next (takeFault (.stackOverflow s.pc .ws) s))

/-- `OVR` (41_data_movement R135). -/
def Obligations.OvrDuplicatesTheSecond : Prop :=
  encode .ovr = [0x12] ∧ Underflows .ovr 2 ∧
  (∀ (s : State) a b rest, s.ws = a :: b :: rest → s.ws.length < Config.wsCap →
    exec .ovr s = .next (retire .ovr s { s with ws := b :: a :: b :: rest, pc := s.pc + 1 })) ∧
  (∀ s : State, s.ws.length = Config.wsCap → exec .ovr s = .next (takeFault (.stackOverflow s.pc .ws) s))

/-- `RMV` (41_data_movement R136). -/
def Obligations.RmvDiscardsTheTop : Prop :=
  encode .rmv = [0x1F] ∧ Underflows .rmv 1 ∧
  ∀ (s : State) v rest, s.ws = v :: rest →
    exec .rmv s = .next (retire .rmv s { s with ws := rest, pc := s.pc + 1 })

/-- `STR` (41_data_movement R137). The cell written and every other cell are read in memory in its canonical form. -/
def Obligations.StrStoresTheValue : Prop :=
  encode .str = [0x16] ∧ Underflows .str 2 ∧
  (∀ (s : State) addr v rest, s.ws = addr :: v :: rest → IsCell addr → Memory.wf s.mem →
    ∃ m, ReadsWith m s.mem addr.toNat v ∧
      exec .str s = .next (retire .str s { s with mem := m, ws := rest, pc := s.pc + 1 })) ∧
  (∀ (s : State) addr v rest, s.ws = addr :: v :: rest → ¬ IsCell addr →
    exec .str s = .next (takeFault (.memoryFault s.pc addr) s))

/-- `MOV f1, f2, a1, a2`: its four forms and its faults in their order (41_data_movement R138, R139). -/
def Obligations.MovMovesOneCell : Prop :=
  (∀ f1 f2 a1 a2, encode (.mov f1 f2 a1 a2) = [0x15, f1, f2, a1, a2]) ∧
  (∀ k, 1 ≤ k → k ≤ 4 → OperandCellFaults .mov k) ∧
  (∀ (s : State) a1 a2 (i j : Fin 8), Names a1 i → Names a2 j →
    exec (.mov 0 0 a1 a2) s = .next (retire (.mov 0 0 a1 a2) s { s with x := s.x.set j s.x[i], pc := s.pc + 5 })) ∧
  (∀ (s : State) a1 a2 (i : Fin 8), Names a1 i → IsCell a2 → Memory.wf s.mem →
    ∃ m, ReadsWith m s.mem a2.toNat s.x[i] ∧
      exec (.mov 0 1 a1 a2) s = .next (retire (.mov 0 1 a1 a2) s { s with mem := m, pc := s.pc + 5 })) ∧
  (∀ (s : State) a1 a2 (j : Fin 8), IsCell a1 → Names a2 j →
    exec (.mov 1 0 a1 a2) s =
      .next (retire (.mov 1 0 a1 a2) s { s with x := s.x.set j (readCell s.mem a1.toNat), pc := s.pc + 5 })) ∧
  (∀ (s : State) a1 a2, IsCell a1 → IsCell a2 → Memory.wf s.mem →
    ∃ m, ReadsWith m s.mem a2.toNat (readCell s.mem a1.toNat) ∧
      exec (.mov 1 1 a1 a2) s = .next (retire (.mov 1 1 a1 a2) s { s with mem := m, pc := s.pc + 5 })) ∧
  (∀ (s : State) f1 f2 a1 a2, f1 ≠ 0 → f1 ≠ 1 →
    exec (.mov f1 f2 a1 a2) s = .next (takeFault (.illegalOperand s.pc f1) s)) ∧
  (∀ (s : State) f1 f2 a1 a2, (f1 = 0 ∨ f1 = 1) → f2 ≠ 0 → f2 ≠ 1 →
    exec (.mov f1 f2 a1 a2) s = .next (takeFault (.illegalOperand s.pc f2) s)) ∧
  (∀ (s : State) f2 a1 a2, (f2 = 0 ∨ f2 = 1) → ¬ IsReg a1 →
    exec (.mov 0 f2 a1 a2) s = .next (takeFault (.illegalOperand s.pc a1) s)) ∧
  (∀ (s : State) f2 a1 a2, (f2 = 0 ∨ f2 = 1) → ¬ IsCell a1 →
    exec (.mov 1 f2 a1 a2) s = .next (takeFault (.memoryFault s.pc a1) s)) ∧
  (∀ (s : State) f1 a1 a2, (f1 = 0 ∧ IsReg a1 ∨ f1 = 1 ∧ IsCell a1) → ¬ IsReg a2 →
    exec (.mov f1 0 a1 a2) s = .next (takeFault (.illegalOperand s.pc a2) s)) ∧
  (∀ (s : State) f1 a1 a2, (f1 = 0 ∧ IsReg a1 ∨ f1 = 1 ∧ IsCell a1) → ¬ IsCell a2 →
    exec (.mov f1 1 a1 a2) s = .next (takeFault (.memoryFault s.pc a2) s))

/-- `SWAP` under `SWAP_OPERANDS = Inline` (41_data_movement R140). -/
def Obligations.SwapExchangesTwoRegisters : Prop :=
  (∀ k1 k2, encode (.swap k1 k2) = [0x1C, k1, k2]) ∧ OperandCellFaults .swap 1 ∧ OperandCellFaults .swap 2 ∧
  (∀ (s : State) k1 k2 (i j : Fin 8), s.params.swapOperands = .inline → Names k1 i → Names k2 j →
    exec (.swap k1 k2) s =
      .next (retire (.swap k1 k2) s { s with x := (s.x.set i s.x[j]).set j s.x[i], pc := s.pc + 3 })) ∧
  (∀ (s : State) k1 k2, s.params.swapOperands = .inline → ¬ IsReg k1 →
    exec (.swap k1 k2) s = .next (takeFault (.illegalOperand s.pc k1) s)) ∧
  (∀ (s : State) k1 k2, s.params.swapOperands = .inline → IsReg k1 → ¬ IsReg k2 →
    exec (.swap k1 k2) s = .next (takeFault (.illegalOperand s.pc k2) s))

/-- `SWAP` under `SWAP_OPERANDS = Stack`: the register numbers are popped and two cells are skipped unread
(41_data_movement R141). -/
def Obligations.SwapPopsItsOperandsUnderStack : Prop :=
  (∀ (s : State) k1 k2 n1 n2 rest (i j : Fin 8), s.params.swapOperands = .stack → s.ws = n1 :: n2 :: rest →
    Names n1 i → Names n2 j →
    exec (.swap k1 k2) s =
      .next (retire (.swap k1 k2) s { s with x := (s.x.set i s.x[j]).set j s.x[i], ws := rest, pc := s.pc + 3 })) ∧
  (∀ (s : State) k1 k2, s.params.swapOperands = .stack → s.ws.length < 2 →
    exec (.swap k1 k2) s = .next (takeFault (.stackUnderflow s.pc .ws) s)) ∧
  (∀ (s : State) k1 k2 n1 n2 rest, s.params.swapOperands = .stack → s.ws = n1 :: n2 :: rest → ¬ IsReg n1 →
    exec (.swap k1 k2) s = .next (takeFault (.illegalOperand s.pc n1) s)) ∧
  (∀ (s : State) k1 k2 n1 n2 rest, s.params.swapOperands = .stack → s.ws = n1 :: n2 :: rest → IsReg n1 → ¬ IsReg n2 →
    exec (.swap k1 k2) s = .next (takeFault (.illegalOperand s.pc n2) s)) ∧
  (∀ s : State, s.params.swapOperands = .stack → s.mode = .running → Function.Injective s.params.opcodeMap →
    IsCell s.pc → readCell s.mem s.pc.toNat = s.params.opcodeMap .swap → ∃ k1 k2, execOne s = exec (.swap k1 k2) s)

/-- `PUSH Rn; POP Rn` changes neither registers nor stack; `POP Rn; PUSH Rn` leaves the stack, sets the register to the
former top, and changes nothing more the second time (41_data_movement R142). -/
def Obligations.PushPopRoundTrips : Prop :=
  (∀ (s : State) n, IsReg n → s.ws.length < Config.wsCap →
    ∃ t u, exec (.push n) s = .next t ∧ exec (.pop n) t = .next u ∧ u.x = s.x ∧ u.ws = s.ws) ∧
  (∀ (s : State) n (j : Fin 8) v rest, Names n j → s.ws = v :: rest → s.ws.length ≤ Config.wsCap →
    ∃ t u t' u', exec (.pop n) s = .next t ∧ exec (.push n) t = .next u ∧ u.ws = s.ws ∧ u.x = s.x.set j v ∧
      exec (.pop n) u = .next t' ∧ exec (.push n) t' = .next u' ∧ u'.ws = u.ws ∧ u'.x = u.x)

/-! ## Arithmetic and comparison -/

/-- `ADD` (42_arithmetic R162), under both settings of `ARITH_OVERFLOW` (R161). -/
def Obligations.AddPushesTheSum : Prop := PushesArith .add 0x09 (fun a b => a + b)

/-- `SUB`: the top minus the one below (42_arithmetic R163). -/
def Obligations.SubPushesTopMinusSecond : Prop := PushesArith .sub 0x0A (fun a b => a - b)

/-- `EQUAL`, `GTH`, `LTH` push 0 for true and 1 for false (42_arithmetic R164, R165, R166). -/
def Obligations.ComparisonsPushInvertedBooleans : Prop :=
  Compares .equal 0x0D (fun a b => a = b) ∧ Compares .gth 0x0E (fun a b => a > b) ∧
  Compares .lth 0x0F (fun a b => a < b)

/-- `INC` and `DCR` (42_arithmetic R167, R168). -/
def Obligations.IncAndDcrChangeTheTop : Prop :=
  ChangesTop .inc 0x13 (fun v => v + 1) ∧ ChangesTop .dcr 0x14 (fun v => v - 1)

/-- `SQRT` pushes the largest `r` with `r*r ≤ a`, and faults on a negative operand (42_arithmetic R169). -/
def Obligations.SqrtPushesTheFloorRoot : Prop :=
  encode .sqrt = [0x17] ∧ Underflows .sqrt 1 ∧
  (∀ (s : State) a rest, s.ws = a :: rest → s.ws.length ≤ Config.wsCap → 0 ≤ a.toInt →
    ∃ r : Nat, (r : Int) * r ≤ a.toInt ∧ a.toInt < ((r : Int) + 1) * (r + 1) ∧
      exec .sqrt s = .next (retire .sqrt s { s with ws := BitVec.ofNat 32 r :: rest, pc := s.pc + 1 })) ∧
  (∀ (s : State) a rest, s.ws = a :: rest → a.toInt < 0 →
    exec .sqrt s = .next (takeFault (.arithmeticFault s.pc .negativeSqrt) s))

/-- `ABS` (42_arithmetic R170): `|-2^31|` goes through `Arith`. -/
def Obligations.AbsPushesTheAbsoluteValue : Prop :=
  encode .abs = [0x18] ∧ Underflows .abs 1 ∧
  (∀ (s : State) a rest, s.ws = a :: rest → s.ws.length ≤ Config.wsCap →
    (s.params.arithOverflow = .wrap ∨ a.toInt ≠ -2147483648) →
    exec .abs s = .next (retire .abs s { s with ws := BitVec.ofInt 32 a.toInt.natAbs :: rest, pc := s.pc + 1 })) ∧
  (∀ (s : State) a rest, s.ws = a :: rest → s.params.arithOverflow = .fault → a.toInt = -2147483648 →
    exec .abs s = .next (takeFault (.arithmeticFault s.pc .overflow) s))

/-- `POW` pushes `Arith` of the exact power, base popped first; it faults on a negative exponent (42_arithmetic R171). The
model computes the power by repeated squaring. -/
def Obligations.PowPushesTheExactPower : Prop :=
  encode .pow = [0x19] ∧ Underflows .pow 2 ∧
  (∀ (s : State) a b rest, s.ws = a :: b :: rest → s.ws.length ≤ Config.wsCap → 0 ≤ b.toInt →
    (s.params.arithOverflow = .wrap ∨ InRange (a.toInt ^ b.toNat)) →
    exec .pow s = .next (retire .pow s { s with ws := BitVec.ofInt 32 (a.toInt ^ b.toNat) :: rest, pc := s.pc + 1 })) ∧
  (∀ (s : State) a b rest, s.ws = a :: b :: rest → b.toInt < 0 →
    exec .pow s = .next (takeFault (.arithmeticFault s.pc .negativeExponent) s)) ∧
  (∀ (s : State) a b rest, s.ws = a :: b :: rest → 0 ≤ b.toInt → s.params.arithOverflow = .fault →
    ¬ InRange (a.toInt ^ b.toNat) → exec .pow s = .next (takeFault (.arithmeticFault s.pc .overflow) s))

/-! ## Control transfer -/

/-- `HALT`: what it resets (43_control_transfer R191) and what it leaves unchanged (R192). -/
def Obligations.HaltUnloadsTheProgram : Prop :=
  encode .halt = [0x00] ∧
  ∀ s : State, ∃ t, exec .halt s = .next t ∧ t.pc = 0 ∧ t.ws = [] ∧ t.rs = [] ∧
    (∀ a, readCell t.mem a = if a < Config.displayBase then 0 else readCell s.mem a) ∧
    t.mode = .halted ∧ t.cause = .halt false ∧
    t.x = s.x ∧ t.dev = s.dev ∧ t.steps = s.steps ∧ t.stepCount = s.stepCount ∧ t.pix = s.pix ∧
    t.console = s.console ∧ t.params = s.params ∧ t.pending = s.pending ∧ t.reply = s.reply

/-- `GOTO` (43_control_transfer R194): return address pushed, target kept below it; faults in the order of its steps. -/
def Obligations.GotoCallsWithReturnAddress : Prop :=
  encode .goto = [0x1D] ∧
  (∀ (s : State) target rest, s.ws = target :: rest → s.ws.length + 2 ≤ Config.wsCap →
    exec .goto s = .next (retire .goto s { s with ws := (s.pc + 1) :: target :: rest, pc := target })) ∧
  (∀ s : State, s.ws.length = Config.wsCap ∨ s.ws.length + 1 = Config.wsCap →
    exec .goto s = .next (takeFault (.stackOverflow s.pc .ws) s)) ∧
  Underflows .goto 1

/-- `JMP` (43_control_transfer R196), whatever the target (R190). -/
def Obligations.JmpPopsItsTarget : Prop :=
  encode .jmp = [0x1E] ∧ Underflows .jmp 1 ∧
  ∀ (s : State) target rest, s.ws = target :: rest →
    exec .jmp s = .next (retire .jmp s { s with ws := rest, pc := target })

/-- `JNZ` (43_control_transfer R200): the target is popped only when the branch is taken. -/
def Obligations.JnzBranchesOnNonzero : Prop :=
  encode .jnz = [0x20] ∧ Underflows .jnz 1 ∧
  (∀ (s : State) c target rest, s.ws = c :: target :: rest → c ≠ 0 →
    exec .jnz s = .next (retire .jnz s { s with ws := rest, pc := target })) ∧
  (∀ (s : State) c, s.ws = [c] → c ≠ 0 → exec .jnz s = .next (takeFault (.stackUnderflow s.pc .ws) s)) ∧
  (∀ (s : State) rest, s.ws = 0 :: rest →
    exec .jnz s = .next (retire .jnz s { s with ws := rest, pc := s.pc + 1 }))

/-- `RPC` pushes its own address (43_control_transfer R203). -/
def Obligations.RpcPushesItsAddress : Prop :=
  encode .rpc = [0x21] ∧
  (∀ s : State, s.ws.length < Config.wsCap →
    exec .rpc s = .next (retire .rpc s { s with ws := s.pc :: s.ws, pc := s.pc + 1 })) ∧
  (∀ s : State, s.ws.length = Config.wsCap → exec .rpc s = .next (takeFault (.stackOverflow s.pc .ws) s))

/-- `RET` moves one value to the return stack (43_control_transfer R205). -/
def Obligations.RetMovesToTheReturnStack : Prop :=
  encode .ret = [0x22] ∧ Underflows .ret 1 ∧
  (∀ (s : State) v rest, s.ws = v :: rest → s.rs.length < Config.rsCap →
    exec .ret s = .next (retire .ret s { s with ws := rest, rs := v :: s.rs, pc := s.pc + 1 })) ∧
  (∀ (s : State) v rest, s.ws = v :: rest → s.rs.length = Config.rsCap →
    exec .ret s = .next (takeFault (.stackOverflow s.pc .rs) s))

/-! ## Device I/O -/

/-- `DVO p` (44_device_io R210). -/
def Obligations.DvoEmitsTheLowByte : Prop :=
  (∀ p, encode (.dvo p) = [0x1A, p]) ∧ OperandCellFaults .dvo 1 ∧
  (∀ (s : State), exec (.dvo 24) s = .next (retire (.dvo 24) s
    { s with console := s.console ++ [(.stderr, (readCell s.dev 24).setWidth 8)], pc := s.pc + 2 })) ∧
  (∀ (s : State), exec (.dvo 25) s = .next (retire (.dvo 25) s
    { s with console := s.console ++ [(.stdout, (readCell s.dev 25).setWidth 8)], pc := s.pc + 2 })) ∧
  (∀ (s : State) p, IsPort p → p ≠ 24 → p ≠ 25 →
    exec (.dvo p) s = .next (retire (.dvo p) s { s with pc := s.pc + 2 })) ∧
  (∀ (s : State) p, ¬ IsPort p → exec (.dvo p) s = .next (takeFault (.illegalOperand s.pc p) s))

/-- `DVW p` (44_device_io R212), under both settings of `PORT_STORE`. -/
def Obligations.DvwWritesThePort : Prop :=
  (∀ p, encode (.dvw p) = [0x1B, p]) ∧ OperandCellFaults .dvw 1 ∧
  (∀ (s : State) p v rest, IsPort p → s.ws = v :: rest → Store.canonical s.dev → s.params.portStore = .cell →
    ∃ d, ReadsWith d s.dev p.toNat v ∧
      exec (.dvw p) s = .next (retire (.dvw p) s { s with dev := d, ws := rest, pc := s.pc + 2 })) ∧
  (∀ (s : State) p v rest, IsPort p → s.ws = v :: rest → Store.canonical s.dev → s.params.portStore = .byte →
    ∃ d, ReadsWith d s.dev p.toNat (BitVec.ofNat 32 (v.toNat % 256)) ∧
      exec (.dvw p) s = .next (retire (.dvw p) s { s with dev := d, ws := rest, pc := s.pc + 2 })) ∧
  (∀ (s : State) p, ¬ IsPort p → exec (.dvw p) s = .next (takeFault (.illegalOperand s.pc p) s)) ∧
  (∀ (s : State) p, IsPort p → s.ws = [] → exec (.dvw p) s = .next (takeFault (.stackUnderflow s.pc .ws) s))

/-! ## The engine -/

/-- A step of a Running core is `Exec()`. In a `STEP` whose budget is not used up, a retired instruction adds one to `step`, a
fault does not, and the command is done with `STATUS`. A `RUN` stays the current command; after a retired instruction it
scans the bus under `SCAN_POINT = PerInstruction`, and only then (40_engine R100, R108, R110, 45_device_bus R227). When the
cells at `pc` decode to `i` under `OPC`, `Exec()` is `exec i`. `SWAP` under `SWAP_OPERANDS = Stack` reads no operand cell
(`SwapPopsItsOperandsUnderStack`). The queue of commands, one loop turn of `RUN` a step, reading the operand cells at the
fetch, and the counters in `STATUS` are the model's choices (log entries 3, 13, 9, 18). -/
def Obligations.StepRunsTheDecodedInstruction : Prop :=
  (∀ (s : State) cs, s.mode = .running → s.pending = .step :: cs → WithinBudget s → ∃ t, execOne s = .next t ∧
    (¬ Faulted t → step s = .next { t with
      stepCount := t.stepCount + 1, pending := cs, reply := .status ⟨t.mode, t.cause, t.steps, t.stepCount + 1⟩ }) ∧
    (Faulted t → step s = .next { t with
      pending := cs, reply := .status ⟨t.mode, t.cause, t.steps, t.stepCount⟩ })) ∧
  (∀ (s : State) cs, s.mode = .running → s.pending = .run :: cs → ∃ t, execOne s = .next t ∧
    (s.params.scanPoint = .perInstruction ∧ ¬ Faulted t → step s = .next (scan Config.font t)) ∧
    (s.params.scanPoint = .perQuantum ∨ Faulted t → step s = .next t)) ∧
  (∀ (s : State) i rest n, s.mode = .running → (i.opcode = .swap → s.params.swapOperands = .inline) →
    IsCell s.pc → s.pc.toNat + n ≤ Config.memCells →
    decodeWith s.params.opcodeMap (cellsAt s.mem s.pc.toNat n) = .ok (i, rest) → execOne s = exec i s)

/-- `STEP` and `RUN` on a Halted core change nothing and return `STATUS` (40_engine R107). What is `pending` and the
`reply` are the model's own (log entry 3; what `STATUS` carries, log entry 18). -/
def Obligations.HaltedStepAndRunChangeNothing : Prop :=
  ∀ (s : State) c cs, s.mode = .halted → (c = .step ∨ c = .run) → s.pending = c :: cs →
    step s = .next { s with pending := cs, reply := .status ⟨s.mode, s.cause, s.steps, s.stepCount⟩ }

/-- A `STEP` whose budget is used up synthesizes `HALT` whatever memory holds, with a marked trace record and without
counting (40_engine R109, R113); the budget is `steps` or `R8` (10_state R32). The record's `op` is `OPC(HALT)`, 0x00 under
the default map. `pending` and `reply` are the model's own (log entry 3; what `STATUS` carries, log entry 18). -/
def Obligations.UsedUpBudgetSynthesizesHalt : Prop :=
  ∀ (s : State) cs, s.mode = .running → s.pending = .step :: cs →
    ((s.params.budgetSource = .stepsField ∧ s.steps ≤ s.stepCount) ∨
      (s.params.budgetSource = .r8 ∧ (s.x[7]).toInt ≤ s.stepCount)) →
    ∃ t, step s = .next t ∧ t.pc = 0 ∧ t.ws = [] ∧ t.rs = [] ∧
      (∀ a, readCell t.mem a = if a < Config.displayBase then 0 else readCell s.mem a) ∧
      t.mode = .halted ∧ t.cause = .halt true ∧ t.x = s.x ∧ t.dev = s.dev ∧ t.pix = s.pix ∧ t.steps = s.steps ∧
      t.stepCount = s.stepCount ∧ t.console = s.console ∧ t.params = s.params ∧ t.pending = cs ∧
      t.reply = .status ⟨.halted, .halt true, s.steps, s.stepCount⟩ ∧
      t.trace = s.trace ++ [⟨s.pc, s.params.opcodeMap .halt, .halt, [], [], s.x, displayWindow t, true⟩]

/-- Fetching a value that is not in `OPC` takes `UnknownOpcode(pc, op)`: nothing but `mode` and `cause` of the core changes.
Under the default map these are the negative values and those above 0x22 (40_engine R103, 30_encoding R88). -/
def Obligations.UnknownOpcodeHaltsInPlace : Prop :=
  (∀ s : State, s.mode = .running → IsCell s.pc → (∀ o, s.params.opcodeMap o ≠ readCell s.mem s.pc.toNat) →
    FaultTaken s (.unknownOpcode s.pc (readCell s.mem s.pc.toNat))) ∧
  (∀ s : State, s.mode = .running → IsCell s.pc → s.params.opcodeMap = opcodeValue →
    ((readCell s.mem s.pc.toNat).toInt < 0 ∨ 0x22 < (readCell s.mem s.pc.toNat).toInt) →
    FaultTaken s (.unknownOpcode s.pc (readCell s.mem s.pc.toNat)))

/-- A fetch from a `pc` outside memory takes `MemoryFault(pc, pc)` (40_engine R101). -/
def Obligations.FetchOutsideMemoryFaults : Prop :=
  ∀ s : State, s.mode = .running → ¬ IsCell s.pc → FaultTaken s (.memoryFault s.pc s.pc)

/-- An instruction either takes a fault, which leaves no trace record, or retires, which appends exactly the record of
40_engine R112 (R105); the window of the record reads as the Display Command Region (log entry 16). The record's `op` is
what `OPC` gives the row, and that is the value of the cell fetched. -/
def Obligations.RetiredInstructionsAreTraced : Prop :=
  (∀ (i : Instr) (s t : State), s.mode = .running → exec i s = .next t →
    (∃ f, t = takeFault f s ∧ t.trace = s.trace) ∨
    (¬ Faulted t ∧
      (∀ a, readCell (displayWindow t) a = if a < Config.displayBase then 0 else readCell t.mem a) ∧
      t.trace = s.trace ++
        [⟨s.pc, s.params.opcodeMap i.opcode, i.opcode, t.ws.reverse, t.rs.reverse, t.x, displayWindow t, false⟩])) ∧
  (∀ s t : State, s.mode = .running → execOne s = .next t → ¬ Faulted t →
    ∃ o, s.params.opcodeMap o = readCell s.mem s.pc.toNat ∧
      t.trace = s.trace ++
        [⟨s.pc, readCell s.mem s.pc.toNat, o, t.ws.reverse, t.rs.reverse, t.x, displayWindow t, false⟩])

/-- Every fault is precise: the state after it is the state before the instruction, but for `mode` and `cause`
(60_exceptions R276, R277). -/
def Obligations.FaultsArePrecise : Prop :=
  ∀ s t : State, s.mode = .running → execOne s = .next t → Faulted t →
    ∃ f, t = { s with mode := .halted, cause := .fault f }

/-- No step of the machine stops: from every state, any number of steps ends in a next state, every fault being taken
(60_exceptions R276; 45_device_bus R234 for `SCAN`). -/
def Obligations.NoStepStopsTheMachine : Prop := ∀ (k : Nat) (s : State), SafeRun k s

/-- The machine's invariant holds after every step from a state where it holds: memory, ports and pixels in canonical
form and in bounds (20_memory R60; log entry 1), stacks within their capacities (10_state R35, R36), no halt cause
while Running (R39), `steps ≤ DISPLAY_BASE` and, with `BUDGET_SOURCE = StepsField`, `step ≤ steps` (R40), an `OPC` whose
rows have different byte values (30_encoding R84, R85) and a `CODEMAP` with one glyph a codepoint (46_display_device R245;
that State carries the two, log entry 2). -/
def Obligations.EveryStepKeepsTheInvariant : Prop := ∀ s t : State, StateInv s → step s = .next t → StateInv t

/-- The invariant holds at reset. -/
def Obligations.ResetMeetsTheInvariant : Prop := StateInv State.reset

/-- `TRACE` and `CONSOLE` are append-only, and no step changes the parameters (10_state R46, R49; that State carries the
parameters is the model's choice, log entry 2). -/
def Obligations.StreamsOnlyGrow : Prop :=
  ∀ s t : State, step s = .next t →
    (∃ r, t.trace = s.trace ++ r) ∧ (∃ b, t.console = s.console ++ b) ∧ t.params = s.params

/-- Only an accepted `LOAD` makes a Halted core Running, and a Running core is made Halted only by `HALT`, a synthesized
`HALT`, a fault, or `RESET` (10_state R38, 60_exceptions R280). That the commands stand in `pending` is the model's choice
(log entry 3). -/
def Obligations.ModeChangesOnlyAsStated : Prop :=
  ∀ s t : State, step s = .next t →
    (s.mode = .halted → t.mode = .running →
      ∃ p cs, s.pending = .load p :: cs ∧ p.length ≤ Config.displayBase ∧ ∀ v ∈ p, InRange v) ∧
    (s.mode = .running → t.mode = .halted →
      (∃ b, t.cause = .halt b) ∨ (∃ f, t.cause = .fault f) ∨ ∃ cs, s.pending = .reset :: cs)

/-! ## Frames over every instruction -/

/-- No instruction changes a register other than its destinations: the writers are `LOAD Rn`, `POP`, `SWAP` and `MOV` with
a register destination (10_state R31). -/
def Obligations.RegistersKeepUnlessWritten : Prop :=
  ∀ (i : Instr) (s t : State) (j : Fin 8), exec i s = .next t → ¬ WritesReg s j i → t.x[j] = s.x[j]

/-- Every cell of memory reads as before, but for the address `STR` pops, the destination address of a `MOV` to memory,
and the Program/Data Region after `HALT` (20_memory R69, 41_data_movement R137, R139, 43_control_transfer R192). -/
def Obligations.MemoryKeepsUnlessStored : Prop :=
  ∀ (i : Instr) (s t : State) (a : Nat), Memory.wf s.mem → exec i s = .next t → ¬ StoresTo s a i →
    readCell t.mem a = readCell s.mem a

/-- The return stack is written by `RET`, which pushes the popped top, and emptied by `HALT`; no other instruction
changes it (10_state R36). -/
def Obligations.ReturnStackOnlyGrowsByRet : Prop :=
  ∀ (i : Instr) (s t : State), exec i s = .next t →
    t.rs = s.rs ∨ (i = .ret ∧ ∃ v, s.ws = v :: t.ws ∧ t.rs = v :: s.rs) ∨ (i = .halt ∧ t.rs = [])

/-- No instruction reaches the pixel buffer, the counters or what the host has sent; only `DVW` writes a port, its own;
only `DVO` on port 24 or 25 writes to the console (44_device_io R213, 10_state R40, R42). -/
def Obligations.DevicesKeepUnlessAddressed : Prop :=
  ∀ (i : Instr) (s t : State), exec i s = .next t →
    t.pix = s.pix ∧ t.steps = s.steps ∧ t.stepCount = s.stepCount ∧ t.params = s.params ∧ t.pending = s.pending ∧
    t.reply = s.reply ∧
    (t.console = s.console ∨ ∃ p e, i = .dvo p ∧ (p = 24 ∨ p = 25) ∧ t.console = s.console ++ [e]) ∧
    (Store.canonical s.dev → ∀ q, (∀ p, i = .dvw p → p.toNat ≠ q) → readCell t.dev q = readCell s.dev q)

/-! ## The two modes -/

/-- `k` `STEP`s within the budget reach the same core as `k` turns of `RUN`, halted or not (40_engine R114). The queue
`pending` that holds the commands, and that a turn of `RUN` is a step, are the model's choices (log entries 3, 13). -/
def Obligations.StepsReachWhatRunReaches : Prop :=
  ∀ (k : Nat) (s t u : State), s.params.budgetSource = .stepsField → s.params.scanPoint = .perQuantum →
    s.stepCount + k ≤ s.steps →
    Host.Core.run Sys2Proof.core k { s with pending := List.replicate k .step } = .next t →
    Host.Core.run Sys2Proof.core k { s with pending := [.run] } = .next u → SameCore t u

/-- After a `LOAD` of `L` cells, `L + 1` `STEP`s always reach `Halted` under `BUDGET_SOURCE = StepsField`
(70_reset_and_hazards R307). The queue `pending` that holds the `LOAD` and the `STEP`s is the model's choice (log entry
3). -/
def Obligations.StepsAfterLoadReachHalted : Prop :=
  ∀ (s t : State) (p : List Int), s.params.budgetSource = .stepsField → p.length ≤ Config.displayBase →
    (∀ v ∈ p, InRange v) →
    Host.Core.run Sys2Proof.core (p.length + 2)
      { s with pending := .load p :: List.replicate (p.length + 1) .step } = .next t →
    t.mode = .halted

/-! ## Reset and load -/

/-- `RESET` sets every element to the value of 10_state R47 and touches neither stream; construction has the same values
(70_reset_and_hazards R290). `params` and `pending` are the model's own (log entries 2, 3). -/
def Obligations.ResetSetsTheConstructionState : Prop :=
  (∀ (s : State) cs, s.pending = .reset :: cs →
    ∃ t, step s = .next t ∧ (∀ a, readCell t.mem a = 0) ∧ (∀ j : Fin 8, t.x[j] = 0) ∧ t.pc = 0 ∧ t.ws = [] ∧ t.rs = [] ∧
      t.steps = 0 ∧ t.stepCount = 0 ∧ (∀ p, readCell t.dev p = 0) ∧ (∀ k, readCell t.pix k = 0) ∧
      t.mode = .halted ∧ t.cause = .none ∧ t.trace = s.trace ∧ t.console = s.console ∧ t.params = s.params ∧
      t.pending = cs) ∧
  (∀ a, readCell State.reset.mem a = 0) ∧ (∀ j : Fin 8, State.reset.x[j] = 0) ∧ State.reset.pc = 0 ∧
  State.reset.ws = [] ∧ State.reset.rs = [] ∧ State.reset.steps = 0 ∧ State.reset.stepCount = 0 ∧
  (∀ p, readCell State.reset.dev p = 0) ∧ (∀ k, readCell State.reset.pix k = 0) ∧
  State.reset.mode = .halted ∧ State.reset.cause = .none

/-- A `LOAD` that succeeds: the program at address 0 and zeros everywhere else, `steps` and `R8` its length, everything
else as after `RESET`, and Running (70_reset_and_hazards R293, R296). `params`, `pending` and `reply` are the model's own
(log entries 2, 3). -/
def Obligations.LoadPlacesTheProgram : Prop :=
  ∀ (s : State) p cs, s.pending = .load p :: cs → p.length ≤ Config.displayBase → (∀ v ∈ p, InRange v) →
    ∃ t, step s = .next t ∧
      (∀ a, readCell t.mem a = match p[a]? with
        | some v => BitVec.ofInt 32 v
        | none => 0) ∧
      (∀ j : Fin 8, t.x[j] = if j = 7 then BitVec.ofNat 32 p.length else 0) ∧
      t.steps = p.length ∧ t.stepCount = 0 ∧ t.pc = 0 ∧ t.ws = [] ∧ t.rs = [] ∧ (∀ q, readCell t.dev q = 0) ∧
      (∀ k, readCell t.pix k = 0) ∧ t.mode = .running ∧ t.cause = .none ∧ t.trace = s.trace ∧
      t.console = s.console ∧ t.params = s.params ∧ t.pending = cs ∧ t.reply = .ok

/-- A `LOAD` that fails changes nothing of the core and returns `ProgramLoadError`: `TooLong` before `BadToken`
(70_reset_and_hazards R294, 60_exceptions R279). `pending` and `reply` are the model's own (log entry 3). -/
def Obligations.FailedLoadChangesNothing : Prop :=
  (∀ (s : State) p cs, s.pending = .load p :: cs → Config.displayBase < p.length →
    step s = .next { s with pending := cs, reply := .failed (.programLoadError .tooLong) }) ∧
  (∀ (s : State) p cs, s.pending = .load p :: cs → p.length ≤ Config.displayBase → (∃ v ∈ p, ¬ InRange v) →
    step s = .next { s with pending := cs, reply := .failed (.programLoadError .badToken) })

/-! ## Device bus and display -/

/-- A scan with no display-class port (16..31) at the trigger value changes nothing: other values and other classes
trigger nothing (45_device_bus R221, R223, R230). -/
def Obligations.UntriggeredScanChangesNothing : Prop :=
  ∀ (font : Font) (s : State), (∀ p, 16 ≤ p → p ≤ 31 → readCell s.dev p ≠ 1) → scan font s = s

/-- A scan dispatches the display-class ports that hold the trigger value when it starts, each exactly once, in ascending
order, to the display frame: the loop tests each port when it reaches it (45_device_bus R226, R228), and a handler writes at
most its own port (R229), so the ports are those of the start (R233). -/
def Obligations.ScanDispatchesTriggeredPortsInOrder : Prop :=
  ∀ (font : Font) (s : State), Store.canonical s.dev →
    scan font s =
      ((List.range 256).filter (fun p => decide (16 ≤ p ∧ p ≤ 31 ∧ readCell s.dev p = 1))).foldl
        (fun t p => displayFrame font p t) s

/-- A `SCAN` command works in either mode, raises no fault, and changes only pixels, the Display Command Region, and ports:
under `DISPLAY_CLEARS_PORT` exactly the triggered ports of the display class are 0 after it (45_device_bus R225, R229, R231,
R234). A frame changes nothing else either: it ends by setting its own port, and no other, to 0 under `DISPLAY_CLEARS_PORT`,
and leaves the ports alone otherwise (R229). `pending` and `reply` are the model's own (log entry 3). -/
def Obligations.ScanChangesOnlyDisplayState : Prop :=
  (∀ (s : State) cs, s.pending = .scan :: cs → Memory.wf s.mem → Store.canonical s.dev →
    ∃ t, step s = .next t ∧
      t = { s with mem := t.mem, pix := t.pix, dev := t.dev, pending := cs, reply := .none } ∧
      (∀ a, a < Config.displayBase → readCell t.mem a = readCell s.mem a) ∧
      (∀ p, readCell t.dev p =
        if s.params.displayClearsPort = true ∧ 16 ≤ p ∧ p ≤ 31 ∧ readCell s.dev p = 1 then 0 else readCell s.dev p)) ∧
  (∀ (font : Font) (p : Nat) (s : State),
    displayFrame font p s =
      { s with mem := (displayFrame font p s).mem, pix := (displayFrame font p s).pix, dev := (displayFrame font p s).dev } ∧
    (s.params.displayClearsPort = false → (displayFrame font p s).dev = s.dev) ∧
    (s.params.displayClearsPort = true → Store.canonical s.dev →
      ∀ q, readCell (displayFrame font p s).dev q = if q = p then 0 else readCell s.dev q))

/-- What a frame does to slot `k`: when the scan goes on past every slot up to `k`, its `x` and `y` advance by one,
wrapped, and its other cells stay; when some slot up to `k` ends the scan, slot `k` stays as it was. Cells outside the
region's slots stay (46_display_device R243, R246, R252, R255). -/
def Obligations.FrameAdvancesExactlyTheDrawnSlots : Prop :=
  ∀ (font : Font) (p : Nat) (s : State), Memory.wf s.mem →
    (∀ k, k < 96000 → (∀ j, j ≤ k → SlotGoesOn s.params s.mem j) → ∀ d, d < 5 →
      readCell (displayFrame font p s).mem (slotBase k + d) =
        if d = 1 ∨ d = 2 then readCell s.mem (slotBase k + d) + 1 else readCell s.mem (slotBase k + d)) ∧
    (∀ k, k < 96000 → (∃ j, j ≤ k ∧ ¬ SlotGoesOn s.params s.mem j) → ∀ d, d < 5 →
      readCell (displayFrame font p s).mem (slotBase k + d) = readCell s.mem (slotBase k + d)) ∧
    (∀ a, a < Config.displayBase ∨ Config.memCells ≤ a →
      readCell (displayFrame font p s).mem a = readCell s.mem a)

/-- The pixels after a frame: a pixel has the low 12 bits of the colour of the last processed slot whose glyph covers it, and
0 when no processed slot's glyph does, whatever the buffer held before (46_display_device R240, R241, R250, R253). That
`CODEMAP` maps a codepoint to one glyph is a premise (an invariant of its own: `EveryStepKeepsTheInvariant`). The default
`CODEMAP` maps 1..26 to `A`..`Z`, and 0 to the space (R245; log entry 12). -/
def Obligations.FramePaintsTheLastCoveringSlot : Prop :=
  (∀ (font : Font) (p : Nat) (s : State) (k : Nat), Memory.wf s.mem → (s.params.codemap.map Prod.fst).Nodup →
    (∀ n, Processed s.params s.mem n → SlotCovers font s.params s.mem n k →
      (∀ j, n < j → Processed s.params s.mem j → ¬ SlotCovers font s.params s.mem j k) →
      readCell (displayFrame font p s).pix k = (readCell s.mem (slotBase n + 4)).setWidth 12) ∧
    ((∀ n, Processed s.params s.mem n → ¬ SlotCovers font s.params s.mem n k) →
      readCell (displayFrame font p s).pix k = 0)) ∧
  (∀ (cp : Word) (glyph : Glyph), (cp, glyph) ∈ defaultParams.codemap ↔
    (cp, glyph) = (0, .space) ∨ ∃ n, n < 26 ∧ cp = BitVec.ofNat 32 (n + 1) ∧ glyphsAToZ[n]? = some glyph)

/-- Rasterizing a glyph sets exactly the pixels its scaled bitmap covers, under both index formulas; the others keep their
value (46_display_device R247, R248, R249, R251, R254). -/
def Obligations.RasterizeSetsExactlyTheCoveredPixels : Prop :=
  ∀ (font : Font) (mode : RasterMode) (glyph : Glyph) (x y scale : Int) (color : Colour) (pix : Store 12) (k : Nat),
    Store.canonical pix →
    (Covers font mode glyph x y scale k → readCell (rasterize font mode glyph x y scale color pix) k = color) ∧
    (¬ Covers font mode glyph x y scale k →
      readCell (rasterize font mode glyph x y scale color pix) k = readCell pix k)

/-- `DRAW_STRING` changes only pixels: it draws the letters, each six to the right of the one before it in the `x`
argument, and nothing for a space or any other character; the letters are exactly `A`..`Z` (46_display_device R258, R259).
The machine carries it out with the OPEN font (log entry 6); `pending` and `reply` are the model's own (log entry 3), and so
are the types of the arguments (log entry 14). -/
def Obligations.DrawStringDrawsItsLetters : Prop :=
  (∀ (s : State) str x y scale color cs, s.pending = .drawString str x y scale color :: cs →
    step s = .next { drawString Config.font str x y scale color s with pending := cs, reply := .none }) ∧
  (∀ (font : Font) (s : State) str x y scale color,
    drawString font str x y scale color s = { s with pix := (drawString font str x y scale color s).pix }) ∧
  (∀ (font : Font) (s : State) str x y scale color k, Store.canonical s.pix →
    ((∃ (n : Nat) (ch : Char) (glyph : Glyph), str[n]? = some ch ∧ letterGlyph ch = some glyph ∧
        Covers font s.params.rasterMode glyph (x + 6 * n) y scale k) →
      readCell (drawString font str x y scale color s).pix k = BitVec.ofInt 12 color) ∧
    ((¬ ∃ (n : Nat) (ch : Char) (glyph : Glyph), str[n]? = some ch ∧ letterGlyph ch = some glyph ∧
        Covers font s.params.rasterMode glyph (x + 6 * n) y scale k) →
      readCell (drawString font str x y scale color s).pix k = readCell s.pix k)) ∧
  (∀ n, n < 26 → letterGlyph (Char.ofNat (65 + n)) = glyphsAToZ[n]?) ∧
  (∀ ch : Char, ch.toNat < 65 ∨ 90 < ch.toNat → letterGlyph ch = none)

/-- The source's example: one trigger draws the record `(1, 10, 10, 2, 0xFFF)` as glyph A in buffer rows and columns
20..29 and leaves it as `(1, 11, 11, 2, 0xFFF)`, whatever the font (46_display_device R256; log entries 3, 6). -/
def Obligations.ExampleRecordIsDrawnAndAdvanced : Prop :=
  ∀ (s : State) cs, StateInv s → s.params = defaultParams → s.pending = .scan :: cs →
    (∀ p, 16 ≤ p → p ≤ 31 → (readCell s.dev p = 1 ↔ p = 16)) →
    readCell s.mem 10005760 = 1 → readCell s.mem 10005761 = 10 → readCell s.mem 10005762 = 10 →
    readCell s.mem 10005763 = 2 → readCell s.mem 10005764 = 0xFFF → readCell s.mem 10005765 = 0 →
    ∃ t, step s = .next t ∧
      readCell t.mem 10005760 = 1 ∧ readCell t.mem 10005761 = 11 ∧ readCell t.mem 10005762 = 11 ∧
      readCell t.mem 10005763 = 2 ∧ readCell t.mem 10005764 = 0xFFF ∧
      (∀ r c dr dc : Nat, r < 5 → c < 5 → dr < 2 → dc < 2 →
        readCell t.pix ((20 + 2 * r + dr) * 800 + (20 + 2 * c + dc)) =
          if Config.font .a r c = true then 0xFFF else 0) ∧
      (∀ row col, row < 600 → col < 800 → (row < 20 ∨ 30 ≤ row ∨ col < 20 ∨ 30 ≤ col) →
        readCell t.pix (row * 800 + col) = 0)
end

