-- ==== Sys2Proof/Laws/Store.lean ====
section
/-! SUPPORT. The sparse spaces: read after write, and every operation keeps the canonical form. -/

namespace Sys2Proof.Machine

variable {w : Nat}

/-- Every entry listed in `m` has a number above `a`. -/
def Store.above (a : Nat) (m : Store w) : Prop := ∀ c ∈ m, a < c.1

theorem readCell_of_above {m : Store w} {a : Nat} (h : Store.above a m) : readCell m a = 0 := by
  induction m with
  | nil => rfl
  | cons c m ih =>
    obtain ⟨b, v⟩ := c
    have hb : a < b := h (b, v) (by simp)
    have : a ≠ b := by omega
    simp only [readCell, if_neg this]
    exact ih fun c hc => h c (by simp [hc])

theorem Store.canonical_cons {c : Nat × BitVec w} {m : Store w} :
    Store.canonical (c :: m) ↔ Store.above c.1 m ∧ c.2 ≠ 0 ∧ Store.canonical m := by
  simp only [Store.canonical, Store.above, List.pairwise_cons, List.mem_cons, forall_eq_or_imp]
  tauto

/-- Reading the entry just written, and every other entry. -/
theorem readCell_writeCell {m : Store w} (h : Store.canonical m) (a b : Nat) (v : BitVec w) :
    readCell (writeCell m a v) b = if b = a then v else readCell m b := by
  induction m with
  | nil =>
    unfold writeCell
    split <;> simp_all [readCell]
  | cons c m ih =>
    obtain ⟨d, u⟩ := c
    obtain ⟨hab, hu, hm⟩ := Store.canonical_cons.1 h
    unfold writeCell
    split
    · rename_i hlt
      have hz : readCell ((d, u) :: m) a = 0 := by
        refine readCell_of_above fun c hc => ?_
        rcases List.mem_cons.1 hc with rfl | hc
        · exact hlt
        · exact lt_trans hlt (hab c hc)
      split
      · rename_i hv
        split
        · rename_i hb
          rw [hb, hz, hv]
        · rfl
      · simp only [readCell]
    · split
      · rename_i hne had
        have had' : a = d := had
        subst had'
        split
        · rename_i hv
          by_cases hb : b = a
          · rw [hb, if_pos rfl, hv]
            exact readCell_of_above hab
          · simp only [readCell, if_neg hb]
        · by_cases hb : b = a <;> simp [readCell, hb]
      · rename_i hlt hne
        simp only [readCell, ih hm]
        by_cases hb : b = d
        · have : b ≠ a := fun e => hne (e ▸ hb)
          simp [hb] at this ⊢
          intro e; exact absurd e this
        · simp [hb]

theorem writeCell_above {m : Store w} {n a : Nat} {v : BitVec w} (h : Store.above n m) (ha : n < a) :
    Store.above n (writeCell m a v) := by
  induction m with
  | nil =>
    unfold writeCell
    split <;> simp [Store.above, ha]
  | cons c m ih =>
    obtain ⟨d, u⟩ := c
    have hd : n < d := h (d, u) (by simp)
    have hm : Store.above n m := fun c hc => h c (by simp [hc])
    unfold writeCell
    have key := ih hm
    split
    · split
      · exact h
      · intro c hc
        rcases List.mem_cons.1 hc with rfl | hc
        · exact ha
        · exact h c hc
    · split
      · split
        · exact hm
        · intro c hc
          rcases List.mem_cons.1 hc with rfl | hc
          · exact ha
          · exact hm c hc
      · intro c hc
        rcases List.mem_cons.1 hc with rfl | hc
        · exact hd
        · exact key c hc

/-- A write keeps the canonical form. -/
theorem writeCell_canonical {m : Store w} (h : Store.canonical m) (a : Nat) (v : BitVec w) :
    Store.canonical (writeCell m a v) := by
  induction m with
  | nil =>
    unfold writeCell
    split <;> simp_all [Store.canonical]
  | cons c m ih =>
    obtain ⟨d, u⟩ := c
    obtain ⟨hab, hu, hm⟩ := Store.canonical_cons.1 h
    unfold writeCell
    split
    · rename_i hlt
      split
      · exact h
      · rename_i hv
        refine Store.canonical_cons.2 ⟨fun c hc => ?_, hv, h⟩
        rcases List.mem_cons.1 hc with rfl | hc
        · exact hlt
        · exact lt_trans hlt (hab c hc)
    · split
      · rename_i had
        have had' : a = d := had
        subst had'
        split
        · exact hm
        · rename_i hv
          exact Store.canonical_cons.2 ⟨hab, hv, hm⟩
      · rename_i hlt hne
        exact Store.canonical_cons.2 ⟨writeCell_above hab (by simp only [] at *; omega), hu, ih hm⟩

/-- A write lists no number it was not given. -/
theorem mem_writeCell {m : Store w} {a : Nat} {v : BitVec w} {c : Nat × BitVec w} (h : c ∈ writeCell m a v) :
    c = (a, v) ∨ c ∈ m := by
  induction m with
  | nil =>
    unfold writeCell at h
    split at h <;> simp_all
  | cons d m ih =>
    obtain ⟨b, u⟩ := d
    unfold writeCell at h
    split at h
    · split at h
      · exact .inr h
      · simpa using h
    · split at h
      · split at h
        · exact .inr (List.mem_cons_of_mem _ h)
        · rcases List.mem_cons.1 h with h | h
          · exact .inl h
          · exact .inr (List.mem_cons_of_mem _ h)
      · rcases List.mem_cons.1 h with h | h
        · exact .inr (by simp [h])
        · rcases ih h with h | h
          · exact .inl h
          · exact .inr (List.mem_cons_of_mem _ h)

/-- A write to a number below `n` keeps every listed number below `n`. -/
theorem writeCell_within {m : Store w} {n a : Nat} {v : BitVec w} (h : Store.within n m) (ha : a < n) :
    Store.within n (writeCell m a v) := by
  intro c hc
  rcases mem_writeCell hc with rfl | hc
  · exact ha
  · exact h c hc

/-- A write to a cell that exists keeps memory in its form. -/
theorem Memory.wf_writeCell {m : Memory} (h : Memory.wf m) {a : Nat} (ha : a < Config.memCells) (v : Word) :
    Memory.wf (writeCell m a v) :=
  ⟨writeCell_canonical h.1 a v, writeCell_within h.2 ha⟩

theorem zeroBelow_canonical {m : Store w} (h : Store.canonical m) (n : Nat) : Store.canonical (zeroBelow n m) :=
  ⟨h.1.filter _, fun c hc => h.2 c (List.mem_of_mem_filter hc)⟩

/-- Zeroing the low entries keeps memory in its form. -/
theorem Memory.wf_zeroBelow {m : Memory} (h : Memory.wf m) (n : Nat) : Memory.wf (zeroBelow n m) :=
  ⟨zeroBelow_canonical h.1 n, fun c hc => h.2 c (List.mem_of_mem_filter hc)⟩

/-- Reading after zeroing the entries below `n`. -/
theorem readCell_zeroBelow (m : Store w) (n a : Nat) :
    readCell (zeroBelow n m) a = if a < n then 0 else readCell m a := by
  induction m with
  | nil => simp [zeroBelow, readCell]
  | cons c m ih =>
    obtain ⟨b, v⟩ := c
    simp only [zeroBelow] at ih ⊢
    by_cases hb : n ≤ b
    · simp only [List.filter_cons, hb, decide_true, if_true, readCell, ih]
      by_cases hab : a = b
      · have : ¬ a < n := by omega
        simp [hab, hb]
      · simp [hab]
    · simp only [List.filter_cons, hb, decide_false, Bool.false_eq_true, if_false, readCell, ih]
      by_cases hab : a = b
      · have : a < n := by omega
        simp [this]
      · simp [hab]

theorem mem_imageFrom {p : List Int} {a : Nat} {c : Nat × Word} (h : c ∈ imageFrom a p) :
    a ≤ c.1 ∧ c.1 < a + p.length ∧ c.2 ≠ 0 := by
  induction p generalizing a with
  | nil => simp [imageFrom] at h
  | cons v p ih =>
    simp only [imageFrom] at h
    split at h
    · have := ih h
      simp only [List.length_cons]
      exact ⟨by omega, by omega, this.2.2⟩
    · rcases List.mem_cons.1 h with rfl | h
      · rename_i hv
        exact ⟨le_refl _, by simp, hv⟩
      · have := ih h
        simp only [List.length_cons]
        exact ⟨by omega, by omega, this.2.2⟩

/-- A loaded program is memory in its form. -/
theorem Memory.wf_imageFrom {p : List Int} {a : Nat} (h : a + p.length ≤ Config.memCells) :
    Memory.wf (imageFrom a p) := by
  refine ⟨⟨?_, fun c hc => (mem_imageFrom hc).2.2⟩, fun c hc => lt_of_lt_of_le (mem_imageFrom hc).2.1 h⟩
  clear h
  induction p generalizing a with
  | nil => simp [imageFrom]
  | cons v p ih =>
    simp only [imageFrom]
    split
    · exact ih
    · exact List.pairwise_cons.2 ⟨fun c hc => (mem_imageFrom hc).1, ih⟩

/-- Placing an instruction's cells keeps memory in its form. -/
theorem Memory.wf_placeCells {m : Memory} (h : Memory.wf m) (a : Nat) (ks : List Word) :
    Memory.wf (placeCells m a ks) := by
  induction ks generalizing m a with
  | nil => exact h
  | cons k ks ih =>
    unfold placeCells
    split
    · rename_i ha
      exact ih (Memory.wf_writeCell h ha k) _
    · exact ih h _

/-- The display's write-back keeps memory in its form. -/
theorem Memory.wf_writeBack {m : Memory} (h : Memory.wf m) {a : Nat} (ha : a + 2 < Config.memCells) :
    Memory.wf (writeBack m a) :=
  Memory.wf_writeCell (Memory.wf_writeCell h (by omega) _) ha _

/-- The display's scan keeps memory in its form. -/
theorem Memory.wf_scanSlots (font : Font) (c : Params) (n a : Nat) {m : Memory} (pix : Store 12) (h : Memory.wf m)
    (ha : a + Config.recordCells * n ≤ Config.memCells) : Memory.wf (scanSlots font c n a m pix).1 := by
  induction n generalizing a m pix with
  | zero => exact h
  | succ n ih =>
    unfold scanSlots
    simp only [Config.recordCells] at ha ih ⊢
    have hw : Memory.wf (writeBack m a) := Memory.wf_writeBack h (by omega)
    split
    · exact h
    · split
      · exact ih _ _ hw (by omega)
      · exact ih _ _ hw (by omega)
      · exact h

end Sys2Proof.Machine
end

