-- ==== Sys2Proof/Laws/Display.lean ====
section
/-! SUPPORT. The shape of what the display and the bus change, and that they keep the canonical forms. -/

namespace Sys2Proof.Machine

/-- A pixel that is written is in the buffer. -/
theorem pixelIndex_lt {mode : RasterMode} {x y scale i j : Int} {k : Nat} (h : pixelIndex mode x y scale i j = some k) :
    k < Config.pixW * Config.pixH := by
  unfold pixelIndex at h
  cases mode <;> dsimp only at h <;> split at h
  · rename_i c
    injection h with h
    simp only [Config.pixW, Config.pixH] at *
    omega
  · cases h
  · rename_i c
    injection h with h
    simp only [Config.pixW, Config.pixH] at *
    omega
  · cases h

/-- A pixel space in canonical form that lists only pixels of the buffer. -/
abbrev Store.pixels (p : Store 12) : Prop := Store.canonical p ∧ Store.within (Config.pixW * Config.pixH) p

/-- `PutPixel` keeps the form. -/
theorem putPixel_pixels {mode : RasterMode} {x y scale i j : Int} {color : Colour} {p : Store 12} (h : Store.pixels p) :
    Store.pixels (putPixel mode x y scale i j color p) := by
  unfold putPixel
  split
  · rename_i k hk
    exact ⟨writeCell_canonical h.1 _ _, writeCell_within h.2 (pixelIndex_lt hk)⟩
  · exact h

/-- What every step of a fold keeps, the fold keeps. -/
theorem foldl_keeps {α β : Type} (P : α → Prop) (f : α → β → α) (hf : ∀ a b, P a → P (f a b)) (l : List β) (a : α)
    (h : P a) : P (l.foldl f a) := by
  induction l generalizing a with
  | nil => exact h
  | cons b l ih => exact ih _ (hf _ _ h)

/-- `Rasterize` keeps the form. -/
theorem rasterize_pixels {font : Font} {mode : RasterMode} {glyph : Glyph} {x y scale : Int} {color : Colour}
    {p : Store 12} (h : Store.pixels p) : Store.pixels (rasterize font mode glyph x y scale color p) := by
  unfold rasterize
  split
  · exact h
  · refine foldl_keeps _ _ (fun a i ha => ?_) _ _ h
    refine foldl_keeps _ _ (fun a j ha => ?_) _ _ ha
    split
    · exact putPixel_pixels ha
    · exact ha

/-- The display's scan keeps the form of the pixels. -/
theorem scanSlots_pixels (font : Font) (c : Params) (n a : Nat) (m : Memory) {p : Store 12} (h : Store.pixels p) :
    Store.pixels (scanSlots font c n a m p).2 := by
  induction n generalizing a m p with
  | zero => exact h
  | succ n ih =>
    unfold scanSlots
    split
    · exact h
    · split
      · exact ih _ _ (rasterize_pixels h)
      · exact ih _ _ h
      · exact h

/-- `DRAW_STRING` keeps the form of the pixels. -/
theorem drawChars_pixels (font : Font) (mode : RasterMode) (l : List Char) (x y scale : Int) (color : Colour)
    {p : Store 12} (h : Store.pixels p) : Store.pixels (drawChars font mode l x y scale color p) := by
  induction l generalizing x p with
  | nil => exact h
  | cons ch l ih =>
    unfold drawChars
    dsimp only
    apply ih
    split
    · exact rasterize_pixels h
    · exact h

/-- The display's write-back, read: `x` and `y` of the slot are one more, every other cell is as it was. -/
theorem readCell_writeBack {m : Memory} (h : Store.canonical m) (a b : Nat) :
    readCell (writeBack m a) b = if b = a + 1 ∨ b = a + 2 then readCell m b + 1 else readCell m b := by
  unfold writeBack
  rw [readCell_writeCell (writeCell_canonical h _ _), readCell_writeCell h]
  by_cases h1 : b = a + 1
  · subst h1; simp
  · by_cases h2 : b = a + 2
    · subst h2; simp
    · simp [h1, h2]

/-- A frame changes memory, pixels and the port table only. -/
theorem displayFrame_shape (font : Font) (p : Nat) (s : State) :
    displayFrame font p s =
      { s with mem := (displayFrame font p s).mem, pix := (displayFrame font p s).pix,
               dev := (displayFrame font p s).dev } := by
  unfold displayFrame
  dsimp only
  split <;> rfl

/-- A dispatch changes memory, pixels and the port table only. -/
theorem scanPort_shape (font : Font) (s : State) (p : Nat) :
    scanPort font s p =
      { s with mem := (scanPort font s p).mem, pix := (scanPort font s p).pix, dev := (scanPort font s p).dev } := by
  unfold scanPort
  split
  · exact displayFrame_shape _ _ _
  · rfl

/-- A scan changes memory, pixels and the port table only. -/
theorem scan_shape (font : Font) (s : State) :
    scan font s = { s with mem := (scan font s).mem, pix := (scan font s).pix, dev := (scan font s).dev } := by
  unfold scan
  generalize List.range Config.numPorts = l
  induction l generalizing s with
  | nil => rfl
  | cons p l ih =>
    simp only [List.foldl_cons]
    rw [ih, scanPort_shape]

/-- The display class is ports 16..31. -/
theorem portClass_display {p : Nat} (hp : p < 256) : portClass p = Config.displayClass ↔ 16 ≤ p ∧ p ≤ 31 := by
  simp only [portClass, Config.displayClass]
  omega

end Sys2Proof.Machine
end

