-- ==== Sys2Proof/Laws/State.lean ====
section
/-! SUPPORT. What each named update of the state does to each field: one lemma per field per update, true by `rfl`. -/

namespace Sys2Proof.Machine

@[simp] theorem State.setMem_mem (s : State) (m : Memory) : (s.setMem m).mem = m := rfl
@[simp] theorem State.setMem_x (s : State) (m : Memory) : (s.setMem m).x = s.x := rfl
@[simp] theorem State.setMem_pc (s : State) (m : Memory) : (s.setMem m).pc = s.pc := rfl
@[simp] theorem State.setMem_ws (s : State) (m : Memory) : (s.setMem m).ws = s.ws := rfl
@[simp] theorem State.setMem_rs (s : State) (m : Memory) : (s.setMem m).rs = s.rs := rfl
@[simp] theorem State.setMem_mode (s : State) (m : Memory) : (s.setMem m).mode = s.mode := rfl
@[simp] theorem State.setMem_cause (s : State) (m : Memory) : (s.setMem m).cause = s.cause := rfl
@[simp] theorem State.setMem_steps (s : State) (m : Memory) : (s.setMem m).steps = s.steps := rfl
@[simp] theorem State.setMem_stepCount (s : State) (m : Memory) : (s.setMem m).stepCount = s.stepCount := rfl
@[simp] theorem State.setMem_dev (s : State) (m : Memory) : (s.setMem m).dev = s.dev := rfl
@[simp] theorem State.setMem_pix (s : State) (m : Memory) : (s.setMem m).pix = s.pix := rfl
@[simp] theorem State.setMem_trace (s : State) (m : Memory) : (s.setMem m).trace = s.trace := rfl
@[simp] theorem State.setMem_console (s : State) (m : Memory) : (s.setMem m).console = s.console := rfl
@[simp] theorem State.setMem_params (s : State) (m : Memory) : (s.setMem m).params = s.params := rfl
@[simp] theorem State.setMem_pending (s : State) (m : Memory) : (s.setMem m).pending = s.pending := rfl
@[simp] theorem State.setMem_reply (s : State) (m : Memory) : (s.setMem m).reply = s.reply := rfl

@[simp] theorem State.setReg_mem (s : State) (i : Fin 8) (v : Word) : (s.setReg i v).mem = s.mem := rfl
@[simp] theorem State.setReg_x (s : State) (i : Fin 8) (v : Word) : (s.setReg i v).x = s.x.set i v := rfl
@[simp] theorem State.setReg_pc (s : State) (i : Fin 8) (v : Word) : (s.setReg i v).pc = s.pc := rfl
@[simp] theorem State.setReg_ws (s : State) (i : Fin 8) (v : Word) : (s.setReg i v).ws = s.ws := rfl
@[simp] theorem State.setReg_rs (s : State) (i : Fin 8) (v : Word) : (s.setReg i v).rs = s.rs := rfl
@[simp] theorem State.setReg_mode (s : State) (i : Fin 8) (v : Word) : (s.setReg i v).mode = s.mode := rfl
@[simp] theorem State.setReg_cause (s : State) (i : Fin 8) (v : Word) : (s.setReg i v).cause = s.cause := rfl
@[simp] theorem State.setReg_steps (s : State) (i : Fin 8) (v : Word) : (s.setReg i v).steps = s.steps := rfl
@[simp] theorem State.setReg_stepCount (s : State) (i : Fin 8) (v : Word) : (s.setReg i v).stepCount = s.stepCount := rfl
@[simp] theorem State.setReg_dev (s : State) (i : Fin 8) (v : Word) : (s.setReg i v).dev = s.dev := rfl
@[simp] theorem State.setReg_pix (s : State) (i : Fin 8) (v : Word) : (s.setReg i v).pix = s.pix := rfl
@[simp] theorem State.setReg_trace (s : State) (i : Fin 8) (v : Word) : (s.setReg i v).trace = s.trace := rfl
@[simp] theorem State.setReg_console (s : State) (i : Fin 8) (v : Word) : (s.setReg i v).console = s.console := rfl
@[simp] theorem State.setReg_params (s : State) (i : Fin 8) (v : Word) : (s.setReg i v).params = s.params := rfl
@[simp] theorem State.setReg_pending (s : State) (i : Fin 8) (v : Word) : (s.setReg i v).pending = s.pending := rfl
@[simp] theorem State.setReg_reply (s : State) (i : Fin 8) (v : Word) : (s.setReg i v).reply = s.reply := rfl

@[simp] theorem State.setPc_mem (s : State) (v : Word) : (s.setPc v).mem = s.mem := rfl
@[simp] theorem State.setPc_x (s : State) (v : Word) : (s.setPc v).x = s.x := rfl
@[simp] theorem State.setPc_pc (s : State) (v : Word) : (s.setPc v).pc = v := rfl
@[simp] theorem State.setPc_ws (s : State) (v : Word) : (s.setPc v).ws = s.ws := rfl
@[simp] theorem State.setPc_rs (s : State) (v : Word) : (s.setPc v).rs = s.rs := rfl
@[simp] theorem State.setPc_mode (s : State) (v : Word) : (s.setPc v).mode = s.mode := rfl
@[simp] theorem State.setPc_cause (s : State) (v : Word) : (s.setPc v).cause = s.cause := rfl
@[simp] theorem State.setPc_steps (s : State) (v : Word) : (s.setPc v).steps = s.steps := rfl
@[simp] theorem State.setPc_stepCount (s : State) (v : Word) : (s.setPc v).stepCount = s.stepCount := rfl
@[simp] theorem State.setPc_dev (s : State) (v : Word) : (s.setPc v).dev = s.dev := rfl
@[simp] theorem State.setPc_pix (s : State) (v : Word) : (s.setPc v).pix = s.pix := rfl
@[simp] theorem State.setPc_trace (s : State) (v : Word) : (s.setPc v).trace = s.trace := rfl
@[simp] theorem State.setPc_console (s : State) (v : Word) : (s.setPc v).console = s.console := rfl
@[simp] theorem State.setPc_params (s : State) (v : Word) : (s.setPc v).params = s.params := rfl
@[simp] theorem State.setPc_pending (s : State) (v : Word) : (s.setPc v).pending = s.pending := rfl
@[simp] theorem State.setPc_reply (s : State) (v : Word) : (s.setPc v).reply = s.reply := rfl

@[simp] theorem State.setWs_mem (s : State) (l : List Word) : (s.setWs l).mem = s.mem := rfl
@[simp] theorem State.setWs_x (s : State) (l : List Word) : (s.setWs l).x = s.x := rfl
@[simp] theorem State.setWs_pc (s : State) (l : List Word) : (s.setWs l).pc = s.pc := rfl
@[simp] theorem State.setWs_ws (s : State) (l : List Word) : (s.setWs l).ws = l := rfl
@[simp] theorem State.setWs_rs (s : State) (l : List Word) : (s.setWs l).rs = s.rs := rfl
@[simp] theorem State.setWs_mode (s : State) (l : List Word) : (s.setWs l).mode = s.mode := rfl
@[simp] theorem State.setWs_cause (s : State) (l : List Word) : (s.setWs l).cause = s.cause := rfl
@[simp] theorem State.setWs_steps (s : State) (l : List Word) : (s.setWs l).steps = s.steps := rfl
@[simp] theorem State.setWs_stepCount (s : State) (l : List Word) : (s.setWs l).stepCount = s.stepCount := rfl
@[simp] theorem State.setWs_dev (s : State) (l : List Word) : (s.setWs l).dev = s.dev := rfl
@[simp] theorem State.setWs_pix (s : State) (l : List Word) : (s.setWs l).pix = s.pix := rfl
@[simp] theorem State.setWs_trace (s : State) (l : List Word) : (s.setWs l).trace = s.trace := rfl
@[simp] theorem State.setWs_console (s : State) (l : List Word) : (s.setWs l).console = s.console := rfl
@[simp] theorem State.setWs_params (s : State) (l : List Word) : (s.setWs l).params = s.params := rfl
@[simp] theorem State.setWs_pending (s : State) (l : List Word) : (s.setWs l).pending = s.pending := rfl
@[simp] theorem State.setWs_reply (s : State) (l : List Word) : (s.setWs l).reply = s.reply := rfl

@[simp] theorem State.setRs_mem (s : State) (l : List Word) : (s.setRs l).mem = s.mem := rfl
@[simp] theorem State.setRs_x (s : State) (l : List Word) : (s.setRs l).x = s.x := rfl
@[simp] theorem State.setRs_pc (s : State) (l : List Word) : (s.setRs l).pc = s.pc := rfl
@[simp] theorem State.setRs_ws (s : State) (l : List Word) : (s.setRs l).ws = s.ws := rfl
@[simp] theorem State.setRs_rs (s : State) (l : List Word) : (s.setRs l).rs = l := rfl
@[simp] theorem State.setRs_mode (s : State) (l : List Word) : (s.setRs l).mode = s.mode := rfl
@[simp] theorem State.setRs_cause (s : State) (l : List Word) : (s.setRs l).cause = s.cause := rfl
@[simp] theorem State.setRs_steps (s : State) (l : List Word) : (s.setRs l).steps = s.steps := rfl
@[simp] theorem State.setRs_stepCount (s : State) (l : List Word) : (s.setRs l).stepCount = s.stepCount := rfl
@[simp] theorem State.setRs_dev (s : State) (l : List Word) : (s.setRs l).dev = s.dev := rfl
@[simp] theorem State.setRs_pix (s : State) (l : List Word) : (s.setRs l).pix = s.pix := rfl
@[simp] theorem State.setRs_trace (s : State) (l : List Word) : (s.setRs l).trace = s.trace := rfl
@[simp] theorem State.setRs_console (s : State) (l : List Word) : (s.setRs l).console = s.console := rfl
@[simp] theorem State.setRs_params (s : State) (l : List Word) : (s.setRs l).params = s.params := rfl
@[simp] theorem State.setRs_pending (s : State) (l : List Word) : (s.setRs l).pending = s.pending := rfl
@[simp] theorem State.setRs_reply (s : State) (l : List Word) : (s.setRs l).reply = s.reply := rfl

@[simp] theorem State.stop_mem (s : State) (c : Cause) : (s.stop c).mem = s.mem := rfl
@[simp] theorem State.stop_x (s : State) (c : Cause) : (s.stop c).x = s.x := rfl
@[simp] theorem State.stop_pc (s : State) (c : Cause) : (s.stop c).pc = s.pc := rfl
@[simp] theorem State.stop_ws (s : State) (c : Cause) : (s.stop c).ws = s.ws := rfl
@[simp] theorem State.stop_rs (s : State) (c : Cause) : (s.stop c).rs = s.rs := rfl
@[simp] theorem State.stop_mode (s : State) (c : Cause) : (s.stop c).mode = .halted := rfl
@[simp] theorem State.stop_cause (s : State) (c : Cause) : (s.stop c).cause = c := rfl
@[simp] theorem State.stop_steps (s : State) (c : Cause) : (s.stop c).steps = s.steps := rfl
@[simp] theorem State.stop_stepCount (s : State) (c : Cause) : (s.stop c).stepCount = s.stepCount := rfl
@[simp] theorem State.stop_dev (s : State) (c : Cause) : (s.stop c).dev = s.dev := rfl
@[simp] theorem State.stop_pix (s : State) (c : Cause) : (s.stop c).pix = s.pix := rfl
@[simp] theorem State.stop_trace (s : State) (c : Cause) : (s.stop c).trace = s.trace := rfl
@[simp] theorem State.stop_console (s : State) (c : Cause) : (s.stop c).console = s.console := rfl
@[simp] theorem State.stop_params (s : State) (c : Cause) : (s.stop c).params = s.params := rfl
@[simp] theorem State.stop_pending (s : State) (c : Cause) : (s.stop c).pending = s.pending := rfl
@[simp] theorem State.stop_reply (s : State) (c : Cause) : (s.stop c).reply = s.reply := rfl

@[simp] theorem State.setStepCount_mem (s : State) (n : Nat) : (s.setStepCount n).mem = s.mem := rfl
@[simp] theorem State.setStepCount_x (s : State) (n : Nat) : (s.setStepCount n).x = s.x := rfl
@[simp] theorem State.setStepCount_pc (s : State) (n : Nat) : (s.setStepCount n).pc = s.pc := rfl
@[simp] theorem State.setStepCount_ws (s : State) (n : Nat) : (s.setStepCount n).ws = s.ws := rfl
@[simp] theorem State.setStepCount_rs (s : State) (n : Nat) : (s.setStepCount n).rs = s.rs := rfl
@[simp] theorem State.setStepCount_mode (s : State) (n : Nat) : (s.setStepCount n).mode = s.mode := rfl
@[simp] theorem State.setStepCount_cause (s : State) (n : Nat) : (s.setStepCount n).cause = s.cause := rfl
@[simp] theorem State.setStepCount_steps (s : State) (n : Nat) : (s.setStepCount n).steps = s.steps := rfl
@[simp] theorem State.setStepCount_stepCount (s : State) (n : Nat) : (s.setStepCount n).stepCount = n := rfl
@[simp] theorem State.setStepCount_dev (s : State) (n : Nat) : (s.setStepCount n).dev = s.dev := rfl
@[simp] theorem State.setStepCount_pix (s : State) (n : Nat) : (s.setStepCount n).pix = s.pix := rfl
@[simp] theorem State.setStepCount_trace (s : State) (n : Nat) : (s.setStepCount n).trace = s.trace := rfl
@[simp] theorem State.setStepCount_console (s : State) (n : Nat) : (s.setStepCount n).console = s.console := rfl
@[simp] theorem State.setStepCount_params (s : State) (n : Nat) : (s.setStepCount n).params = s.params := rfl
@[simp] theorem State.setStepCount_pending (s : State) (n : Nat) : (s.setStepCount n).pending = s.pending := rfl
@[simp] theorem State.setStepCount_reply (s : State) (n : Nat) : (s.setStepCount n).reply = s.reply := rfl

@[simp] theorem State.setDev_mem (s : State) (d : Store 32) : (s.setDev d).mem = s.mem := rfl
@[simp] theorem State.setDev_x (s : State) (d : Store 32) : (s.setDev d).x = s.x := rfl
@[simp] theorem State.setDev_pc (s : State) (d : Store 32) : (s.setDev d).pc = s.pc := rfl
@[simp] theorem State.setDev_ws (s : State) (d : Store 32) : (s.setDev d).ws = s.ws := rfl
@[simp] theorem State.setDev_rs (s : State) (d : Store 32) : (s.setDev d).rs = s.rs := rfl
@[simp] theorem State.setDev_mode (s : State) (d : Store 32) : (s.setDev d).mode = s.mode := rfl
@[simp] theorem State.setDev_cause (s : State) (d : Store 32) : (s.setDev d).cause = s.cause := rfl
@[simp] theorem State.setDev_steps (s : State) (d : Store 32) : (s.setDev d).steps = s.steps := rfl
@[simp] theorem State.setDev_stepCount (s : State) (d : Store 32) : (s.setDev d).stepCount = s.stepCount := rfl
@[simp] theorem State.setDev_dev (s : State) (d : Store 32) : (s.setDev d).dev = d := rfl
@[simp] theorem State.setDev_pix (s : State) (d : Store 32) : (s.setDev d).pix = s.pix := rfl
@[simp] theorem State.setDev_trace (s : State) (d : Store 32) : (s.setDev d).trace = s.trace := rfl
@[simp] theorem State.setDev_console (s : State) (d : Store 32) : (s.setDev d).console = s.console := rfl
@[simp] theorem State.setDev_params (s : State) (d : Store 32) : (s.setDev d).params = s.params := rfl
@[simp] theorem State.setDev_pending (s : State) (d : Store 32) : (s.setDev d).pending = s.pending := rfl
@[simp] theorem State.setDev_reply (s : State) (d : Store 32) : (s.setDev d).reply = s.reply := rfl

@[simp] theorem State.setPix_mem (s : State) (p : Store 12) : (s.setPix p).mem = s.mem := rfl
@[simp] theorem State.setPix_x (s : State) (p : Store 12) : (s.setPix p).x = s.x := rfl
@[simp] theorem State.setPix_pc (s : State) (p : Store 12) : (s.setPix p).pc = s.pc := rfl
@[simp] theorem State.setPix_ws (s : State) (p : Store 12) : (s.setPix p).ws = s.ws := rfl
@[simp] theorem State.setPix_rs (s : State) (p : Store 12) : (s.setPix p).rs = s.rs := rfl
@[simp] theorem State.setPix_mode (s : State) (p : Store 12) : (s.setPix p).mode = s.mode := rfl
@[simp] theorem State.setPix_cause (s : State) (p : Store 12) : (s.setPix p).cause = s.cause := rfl
@[simp] theorem State.setPix_steps (s : State) (p : Store 12) : (s.setPix p).steps = s.steps := rfl
@[simp] theorem State.setPix_stepCount (s : State) (p : Store 12) : (s.setPix p).stepCount = s.stepCount := rfl
@[simp] theorem State.setPix_dev (s : State) (p : Store 12) : (s.setPix p).dev = s.dev := rfl
@[simp] theorem State.setPix_pix (s : State) (p : Store 12) : (s.setPix p).pix = p := rfl
@[simp] theorem State.setPix_trace (s : State) (p : Store 12) : (s.setPix p).trace = s.trace := rfl
@[simp] theorem State.setPix_console (s : State) (p : Store 12) : (s.setPix p).console = s.console := rfl
@[simp] theorem State.setPix_params (s : State) (p : Store 12) : (s.setPix p).params = s.params := rfl
@[simp] theorem State.setPix_pending (s : State) (p : Store 12) : (s.setPix p).pending = s.pending := rfl
@[simp] theorem State.setPix_reply (s : State) (p : Store 12) : (s.setPix p).reply = s.reply := rfl

@[simp] theorem State.addTrace_mem (s : State) (r : TraceRecord) : (s.addTrace r).mem = s.mem := rfl
@[simp] theorem State.addTrace_x (s : State) (r : TraceRecord) : (s.addTrace r).x = s.x := rfl
@[simp] theorem State.addTrace_pc (s : State) (r : TraceRecord) : (s.addTrace r).pc = s.pc := rfl
@[simp] theorem State.addTrace_ws (s : State) (r : TraceRecord) : (s.addTrace r).ws = s.ws := rfl
@[simp] theorem State.addTrace_rs (s : State) (r : TraceRecord) : (s.addTrace r).rs = s.rs := rfl
@[simp] theorem State.addTrace_mode (s : State) (r : TraceRecord) : (s.addTrace r).mode = s.mode := rfl
@[simp] theorem State.addTrace_cause (s : State) (r : TraceRecord) : (s.addTrace r).cause = s.cause := rfl
@[simp] theorem State.addTrace_steps (s : State) (r : TraceRecord) : (s.addTrace r).steps = s.steps := rfl
@[simp] theorem State.addTrace_stepCount (s : State) (r : TraceRecord) : (s.addTrace r).stepCount = s.stepCount := rfl
@[simp] theorem State.addTrace_dev (s : State) (r : TraceRecord) : (s.addTrace r).dev = s.dev := rfl
@[simp] theorem State.addTrace_pix (s : State) (r : TraceRecord) : (s.addTrace r).pix = s.pix := rfl
@[simp] theorem State.addTrace_trace (s : State) (r : TraceRecord) : (s.addTrace r).trace = s.trace ++ [r] := rfl
@[simp] theorem State.addTrace_console (s : State) (r : TraceRecord) : (s.addTrace r).console = s.console := rfl
@[simp] theorem State.addTrace_params (s : State) (r : TraceRecord) : (s.addTrace r).params = s.params := rfl
@[simp] theorem State.addTrace_pending (s : State) (r : TraceRecord) : (s.addTrace r).pending = s.pending := rfl
@[simp] theorem State.addTrace_reply (s : State) (r : TraceRecord) : (s.addTrace r).reply = s.reply := rfl

@[simp] theorem State.emit_mem (s : State) (k : Stream) (b : Byte) : (s.emit k b).mem = s.mem := rfl
@[simp] theorem State.emit_x (s : State) (k : Stream) (b : Byte) : (s.emit k b).x = s.x := rfl
@[simp] theorem State.emit_pc (s : State) (k : Stream) (b : Byte) : (s.emit k b).pc = s.pc := rfl
@[simp] theorem State.emit_ws (s : State) (k : Stream) (b : Byte) : (s.emit k b).ws = s.ws := rfl
@[simp] theorem State.emit_rs (s : State) (k : Stream) (b : Byte) : (s.emit k b).rs = s.rs := rfl
@[simp] theorem State.emit_mode (s : State) (k : Stream) (b : Byte) : (s.emit k b).mode = s.mode := rfl
@[simp] theorem State.emit_cause (s : State) (k : Stream) (b : Byte) : (s.emit k b).cause = s.cause := rfl
@[simp] theorem State.emit_steps (s : State) (k : Stream) (b : Byte) : (s.emit k b).steps = s.steps := rfl
@[simp] theorem State.emit_stepCount (s : State) (k : Stream) (b : Byte) : (s.emit k b).stepCount = s.stepCount := rfl
@[simp] theorem State.emit_dev (s : State) (k : Stream) (b : Byte) : (s.emit k b).dev = s.dev := rfl
@[simp] theorem State.emit_pix (s : State) (k : Stream) (b : Byte) : (s.emit k b).pix = s.pix := rfl
@[simp] theorem State.emit_trace (s : State) (k : Stream) (b : Byte) : (s.emit k b).trace = s.trace := rfl
@[simp] theorem State.emit_console (s : State) (k : Stream) (b : Byte) : (s.emit k b).console = s.console ++ [(k, b)] := rfl
@[simp] theorem State.emit_params (s : State) (k : Stream) (b : Byte) : (s.emit k b).params = s.params := rfl
@[simp] theorem State.emit_pending (s : State) (k : Stream) (b : Byte) : (s.emit k b).pending = s.pending := rfl
@[simp] theorem State.emit_reply (s : State) (k : Stream) (b : Byte) : (s.emit k b).reply = s.reply := rfl

@[simp] theorem State.setHost_mem (s : State) (cs : List Command) (r : Reply) : (s.setHost cs r).mem = s.mem := rfl
@[simp] theorem State.setHost_x (s : State) (cs : List Command) (r : Reply) : (s.setHost cs r).x = s.x := rfl
@[simp] theorem State.setHost_pc (s : State) (cs : List Command) (r : Reply) : (s.setHost cs r).pc = s.pc := rfl
@[simp] theorem State.setHost_ws (s : State) (cs : List Command) (r : Reply) : (s.setHost cs r).ws = s.ws := rfl
@[simp] theorem State.setHost_rs (s : State) (cs : List Command) (r : Reply) : (s.setHost cs r).rs = s.rs := rfl
@[simp] theorem State.setHost_mode (s : State) (cs : List Command) (r : Reply) : (s.setHost cs r).mode = s.mode := rfl
@[simp] theorem State.setHost_cause (s : State) (cs : List Command) (r : Reply) : (s.setHost cs r).cause = s.cause := rfl
@[simp] theorem State.setHost_steps (s : State) (cs : List Command) (r : Reply) : (s.setHost cs r).steps = s.steps := rfl
@[simp] theorem State.setHost_stepCount (s : State) (cs : List Command) (r : Reply) : (s.setHost cs r).stepCount = s.stepCount := rfl
@[simp] theorem State.setHost_dev (s : State) (cs : List Command) (r : Reply) : (s.setHost cs r).dev = s.dev := rfl
@[simp] theorem State.setHost_pix (s : State) (cs : List Command) (r : Reply) : (s.setHost cs r).pix = s.pix := rfl
@[simp] theorem State.setHost_trace (s : State) (cs : List Command) (r : Reply) : (s.setHost cs r).trace = s.trace := rfl
@[simp] theorem State.setHost_console (s : State) (cs : List Command) (r : Reply) : (s.setHost cs r).console = s.console := rfl
@[simp] theorem State.setHost_params (s : State) (cs : List Command) (r : Reply) : (s.setHost cs r).params = s.params := rfl
@[simp] theorem State.setHost_pending (s : State) (cs : List Command) (r : Reply) : (s.setHost cs r).pending = cs := rfl
@[simp] theorem State.setHost_reply (s : State) (cs : List Command) (r : Reply) : (s.setHost cs r).reply = r := rfl

@[simp] theorem State.advance_mem (s : State) (n : Nat) : (s.advance n).mem = s.mem := rfl
@[simp] theorem State.advance_x (s : State) (n : Nat) : (s.advance n).x = s.x := rfl
@[simp] theorem State.advance_pc (s : State) (n : Nat) : (s.advance n).pc = s.pc + BitVec.ofNat 32 n := rfl
@[simp] theorem State.advance_ws (s : State) (n : Nat) : (s.advance n).ws = s.ws := rfl
@[simp] theorem State.advance_rs (s : State) (n : Nat) : (s.advance n).rs = s.rs := rfl
@[simp] theorem State.advance_mode (s : State) (n : Nat) : (s.advance n).mode = s.mode := rfl
@[simp] theorem State.advance_cause (s : State) (n : Nat) : (s.advance n).cause = s.cause := rfl
@[simp] theorem State.advance_steps (s : State) (n : Nat) : (s.advance n).steps = s.steps := rfl
@[simp] theorem State.advance_stepCount (s : State) (n : Nat) : (s.advance n).stepCount = s.stepCount := rfl
@[simp] theorem State.advance_dev (s : State) (n : Nat) : (s.advance n).dev = s.dev := rfl
@[simp] theorem State.advance_pix (s : State) (n : Nat) : (s.advance n).pix = s.pix := rfl
@[simp] theorem State.advance_trace (s : State) (n : Nat) : (s.advance n).trace = s.trace := rfl
@[simp] theorem State.advance_console (s : State) (n : Nat) : (s.advance n).console = s.console := rfl
@[simp] theorem State.advance_params (s : State) (n : Nat) : (s.advance n).params = s.params := rfl
@[simp] theorem State.advance_pending (s : State) (n : Nat) : (s.advance n).pending = s.pending := rfl
@[simp] theorem State.advance_reply (s : State) (n : Nat) : (s.advance n).reply = s.reply := rfl

@[simp] theorem takeFault_mem (f : CoreFault) (s : State) : (takeFault f s).mem = s.mem := rfl
@[simp] theorem takeFault_x (f : CoreFault) (s : State) : (takeFault f s).x = s.x := rfl
@[simp] theorem takeFault_pc (f : CoreFault) (s : State) : (takeFault f s).pc = s.pc := rfl
@[simp] theorem takeFault_ws (f : CoreFault) (s : State) : (takeFault f s).ws = s.ws := rfl
@[simp] theorem takeFault_rs (f : CoreFault) (s : State) : (takeFault f s).rs = s.rs := rfl
@[simp] theorem takeFault_mode (f : CoreFault) (s : State) : (takeFault f s).mode = .halted := rfl
@[simp] theorem takeFault_cause (f : CoreFault) (s : State) : (takeFault f s).cause = .fault f := rfl
@[simp] theorem takeFault_steps (f : CoreFault) (s : State) : (takeFault f s).steps = s.steps := rfl
@[simp] theorem takeFault_stepCount (f : CoreFault) (s : State) : (takeFault f s).stepCount = s.stepCount := rfl
@[simp] theorem takeFault_dev (f : CoreFault) (s : State) : (takeFault f s).dev = s.dev := rfl
@[simp] theorem takeFault_pix (f : CoreFault) (s : State) : (takeFault f s).pix = s.pix := rfl
@[simp] theorem takeFault_trace (f : CoreFault) (s : State) : (takeFault f s).trace = s.trace := rfl
@[simp] theorem takeFault_console (f : CoreFault) (s : State) : (takeFault f s).console = s.console := rfl
@[simp] theorem takeFault_params (f : CoreFault) (s : State) : (takeFault f s).params = s.params := rfl
@[simp] theorem takeFault_pending (f : CoreFault) (s : State) : (takeFault f s).pending = s.pending := rfl
@[simp] theorem takeFault_reply (f : CoreFault) (s : State) : (takeFault f s).reply = s.reply := rfl

@[simp] theorem retire_mem (i : Instr) (s t : State) : (retire i s t).mem = t.mem := rfl
@[simp] theorem retire_x (i : Instr) (s t : State) : (retire i s t).x = t.x := rfl
@[simp] theorem retire_pc (i : Instr) (s t : State) : (retire i s t).pc = t.pc := rfl
@[simp] theorem retire_ws (i : Instr) (s t : State) : (retire i s t).ws = t.ws := rfl
@[simp] theorem retire_rs (i : Instr) (s t : State) : (retire i s t).rs = t.rs := rfl
@[simp] theorem retire_mode (i : Instr) (s t : State) : (retire i s t).mode = t.mode := rfl
@[simp] theorem retire_cause (i : Instr) (s t : State) : (retire i s t).cause = t.cause := rfl
@[simp] theorem retire_steps (i : Instr) (s t : State) : (retire i s t).steps = t.steps := rfl
@[simp] theorem retire_stepCount (i : Instr) (s t : State) : (retire i s t).stepCount = t.stepCount := rfl
@[simp] theorem retire_dev (i : Instr) (s t : State) : (retire i s t).dev = t.dev := rfl
@[simp] theorem retire_pix (i : Instr) (s t : State) : (retire i s t).pix = t.pix := rfl
@[simp] theorem retire_trace (i : Instr) (s t : State) : (retire i s t).trace = t.trace ++ [traceRecord i.opcode s.pc false t] := rfl
@[simp] theorem retire_console (i : Instr) (s t : State) : (retire i s t).console = t.console := rfl
@[simp] theorem retire_params (i : Instr) (s t : State) : (retire i s t).params = t.params := rfl
@[simp] theorem retire_pending (i : Instr) (s t : State) : (retire i s t).pending = t.pending := rfl
@[simp] theorem retire_reply (i : Instr) (s t : State) : (retire i s t).reply = t.reply := rfl

@[simp] theorem haltEffect_mem (b : Bool) (s : State) : (haltEffect b s).mem = zeroBelow Config.displayBase s.mem := rfl
@[simp] theorem haltEffect_x (b : Bool) (s : State) : (haltEffect b s).x = s.x := rfl
@[simp] theorem haltEffect_pc (b : Bool) (s : State) : (haltEffect b s).pc = 0 := rfl
@[simp] theorem haltEffect_ws (b : Bool) (s : State) : (haltEffect b s).ws = [] := rfl
@[simp] theorem haltEffect_rs (b : Bool) (s : State) : (haltEffect b s).rs = [] := rfl
@[simp] theorem haltEffect_mode (b : Bool) (s : State) : (haltEffect b s).mode = .halted := rfl
@[simp] theorem haltEffect_cause (b : Bool) (s : State) : (haltEffect b s).cause = .halt b := rfl
@[simp] theorem haltEffect_steps (b : Bool) (s : State) : (haltEffect b s).steps = s.steps := rfl
@[simp] theorem haltEffect_stepCount (b : Bool) (s : State) : (haltEffect b s).stepCount = s.stepCount := rfl
@[simp] theorem haltEffect_dev (b : Bool) (s : State) : (haltEffect b s).dev = s.dev := rfl
@[simp] theorem haltEffect_pix (b : Bool) (s : State) : (haltEffect b s).pix = s.pix := rfl
@[simp] theorem haltEffect_trace (b : Bool) (s : State) : (haltEffect b s).trace = s.trace := rfl
@[simp] theorem haltEffect_console (b : Bool) (s : State) : (haltEffect b s).console = s.console := rfl
@[simp] theorem haltEffect_params (b : Bool) (s : State) : (haltEffect b s).params = s.params := rfl
@[simp] theorem haltEffect_pending (b : Bool) (s : State) : (haltEffect b s).pending = s.pending := rfl
@[simp] theorem haltEffect_reply (b : Bool) (s : State) : (haltEffect b s).reply = s.reply := rfl

@[simp] theorem State.stack_ws (s : State) : s.stack .ws = s.ws := rfl
@[simp] theorem State.stack_rs (s : State) : s.stack .rs = s.rs := rfl
@[simp] theorem State.setStack_ws (s : State) (l : List Word) : s.setStack .ws l = s.setWs l := rfl
@[simp] theorem State.setStack_rs (s : State) (l : List Word) : s.setStack .rs l = s.setRs l := rfl
@[simp] theorem stackCap_ws : stackCap .ws = Config.wsCap := rfl
@[simp] theorem stackCap_rs : stackCap .rs = Config.rsCap := rfl

@[simp] theorem status_mode (s : State) : (status s).mode = s.mode := rfl
@[simp] theorem status_cause (s : State) : (status s).cause = s.cause := rfl
@[simp] theorem status_steps (s : State) : (status s).steps = s.steps := rfl
@[simp] theorem status_stepCount (s : State) : (status s).stepCount = s.stepCount := rfl

/-- Reading a register after writing one. -/
@[simp] theorem State.reg_setReg (s : State) (i j : Fin 8) (v : Word) :
    (s.setReg i v).reg j = if i = j then v else s.reg j := by
  simp only [State.reg, State.setReg, Fin.getElem_fin, Vector.getElem_set, Fin.ext_iff]

@[simp] theorem commit_ok (i : Instr) (s t : State) : commit i s (.ok t) = .next (retire i s t) := rfl
@[simp] theorem commit_error (i : Instr) (s : State) (f : CoreFault) : commit i s (.error f) = .next (takeFault f s) := rfl

end Sys2Proof.Machine
end

