-- ==== Sys2Proof/Laws/Ops.lean ====
section
/-! SUPPORT. What each shared operation can do, said once: when it answers a value, what it answers; when it raises. -/

namespace Sys2Proof.Machine

/-! ## The bind of a pseudocode line -/

/-- A sequence that ends without a `raise` had a first line that did, and then the rest. -/
theorem bind_eq_ok {α β : Type} {x : Except CoreFault α} {f : α → Except CoreFault β} {b : β} :
    (x >>= f) = .ok b ↔ ∃ a, x = .ok a ∧ f a = .ok b := by
  cases x <;> simp [bind, Except.bind]

@[simp] theorem ok_bind {α β : Type} (a : α) (f : α → Except CoreFault β) : (Except.ok a >>= f) = f a := rfl
@[simp] theorem error_bind {α β : Type} (e : CoreFault) (f : α → Except CoreFault β) :
    ((Except.error e : Except CoreFault α) >>= f) = .error e := rfl
@[simp] theorem pure_eq_ok {α : Type} (a : α) : (pure a : Except CoreFault α) = .ok a := rfl

/-! ## Addresses -/

/-- The signed value of a cell by its unsigned one. -/
theorem word_toInt (n : Word) :
    (n.toNat < 2147483648 ∧ n.toInt = n.toNat) ∨
      (2147483648 ≤ n.toNat ∧ n.toNat < 4294967296 ∧ n.toInt = n.toNat - 4294967296) := by
  have h := n.isLt
  have e := BitVec.toInt_eq_toNat_cond n
  split at e <;> omega

/-- The address of a cell as a number. -/
theorem inMemory_iff {a : Word} : inMemory a = true ↔ a.toNat < Config.memCells := by
  unfold inMemory
  rw [decide_eq_true_iff]
  have := word_toInt a
  simp only [Config.memCells]
  omega

theorem memRead_ok {s : State} {a v : Word} :
    memRead s a = .ok v ↔ inMemory a = true ∧ v = readCell s.mem a.toNat := by
  by_cases h : inMemory a = true <;> simp [memRead, h, eq_comm]

theorem memRead_error {s : State} {a : Word} {f : CoreFault} :
    memRead s a = .error f ↔ inMemory a = false ∧ f = .memoryFault s.pc a := by
  by_cases h : inMemory a = true <;> simp [memRead, h, eq_comm]

theorem memWrite_ok {s t : State} {a v : Word} :
    memWrite s a v = .ok t ↔ inMemory a = true ∧ t = s.setMem (writeCell s.mem a.toNat v) := by
  by_cases h : inMemory a = true <;> simp [memWrite, h, eq_comm]

theorem memWrite_error {s : State} {a v : Word} {f : CoreFault} :
    memWrite s a v = .error f ↔ inMemory a = false ∧ f = .memoryFault s.pc a := by
  by_cases h : inMemory a = true <;> simp [memWrite, h, eq_comm]

/-! ## Stacks -/

theorem push_ok {k : StackId} {s t : State} {v : Word} :
    push k s v = .ok t ↔ (s.stack k).length < stackCap k ∧ t = s.setStack k (v :: s.stack k) := by
  by_cases h : stackCap k ≤ (s.stack k).length
  · simp [push, h]
  · simp [push, h, not_le.1 h, eq_comm]

theorem push_error {k : StackId} {s : State} {v : Word} {f : CoreFault} :
    push k s v = .error f ↔ stackCap k ≤ (s.stack k).length ∧ f = .stackOverflow s.pc k := by
  by_cases h : stackCap k ≤ (s.stack k).length <;> simp [push, h, eq_comm]

theorem pop_ok {k : StackId} {s t : State} {v : Word} :
    pop k s = .ok (v, t) ↔ ∃ l, s.stack k = v :: l ∧ t = s.setStack k l := by
  rcases h : s.stack k with _ | ⟨u, l⟩
  · simp [pop, h]
  · simp only [pop, h, Except.ok.injEq, Prod.mk.injEq, List.cons.injEq]
    constructor
    · rintro ⟨rfl, rfl⟩
      exact ⟨l, ⟨rfl, rfl⟩, rfl⟩
    · rintro ⟨l', ⟨rfl, rfl⟩, rfl⟩
      exact ⟨rfl, rfl⟩

theorem pop_error {k : StackId} {s : State} {f : CoreFault} :
    pop k s = .error f ↔ s.stack k = [] ∧ f = .stackUnderflow s.pc k := by
  rcases h : s.stack k with _ | ⟨u, l⟩ <;> simp [pop, h, eq_comm]

theorem peek_ok {k : StackId} {s : State} {n : Nat} {v : Word} :
    peek k s n = .ok v ↔ (s.stack k)[n]? = some v := by
  unfold peek
  cases (s.stack k)[n]? <;> simp

theorem peek_error {k : StackId} {s : State} {n : Nat} {f : CoreFault} :
    peek k s n = .error f ↔ (s.stack k)[n]? = none ∧ f = .stackUnderflow s.pc k := by
  unfold peek
  cases (s.stack k)[n]? <;> simp [eq_comm]

theorem setTop_ok {k : StackId} {s t : State} {v : Word} :
    setTop k s v = .ok t ↔ ∃ u l, s.stack k = u :: l ∧ t = s.setStack k (v :: l) := by
  rcases h : s.stack k with _ | ⟨u, l⟩
  · simp [setTop, h]
  · simp only [setTop, h, Except.ok.injEq, List.cons.injEq]
    constructor
    · rintro rfl
      exact ⟨u, l, ⟨rfl, rfl⟩, rfl⟩
    · rintro ⟨u', l', ⟨rfl, rfl⟩, rfl⟩
      rfl

theorem setTop_error {k : StackId} {s : State} {v : Word} {f : CoreFault} :
    setTop k s v = .error f ↔ s.stack k = [] ∧ f = .stackUnderflow s.pc k := by
  rcases h : s.stack k with _ | ⟨u, l⟩ <;> simp [setTop, h, eq_comm]

/-! ## Operands -/

theorem regIndex_ok {s : State} {n : Word} {i : Fin 8} :
    regIndex s n = .ok i ↔ n.toNat = i.val + 1 := by
  have hi := i.isLt
  have hw := word_toInt n
  by_cases hn : 1 ≤ n.toInt ∧ n.toInt ≤ 8
  · simp only [regIndex, hn, and_self, if_true, Except.ok.injEq, Fin.ext_iff, Fin.ofNat]
    omega
  · simp only [regIndex, hn, if_false, reduceCtorEq, false_iff]
    omega

theorem regIndex_error {s : State} {n : Word} {f : CoreFault} :
    regIndex s n = .error f ↔ ¬ (1 ≤ n.toInt ∧ n.toInt ≤ 8) ∧ f = .illegalOperand s.pc n := by
  unfold regIndex
  by_cases hn : 1 ≤ n.toInt ∧ n.toInt ≤ 8
  · rw [if_pos hn]; simp [hn]
  · rw [if_neg hn]; simp only [hn, Except.error.injEq, not_false_eq_true, true_and]; exact eq_comm

theorem portIndex_ok {s : State} {p : Word} {i : Nat} :
    portIndex s p = .ok i ↔ i < 256 ∧ p.toNat = i := by
  have hw := word_toInt p
  by_cases hn : 0 ≤ p.toInt ∧ p.toInt ≤ 255
  · simp only [portIndex, hn, and_self, if_true, Except.ok.injEq]
    omega
  · simp only [portIndex, hn, if_false, reduceCtorEq, false_iff]
    omega

theorem portIndex_error {s : State} {p : Word} {f : CoreFault} :
    portIndex s p = .error f ↔ ¬ (0 ≤ p.toInt ∧ p.toInt ≤ 255) ∧ f = .illegalOperand s.pc p := by
  unfold portIndex
  by_cases hn : 0 ≤ p.toInt ∧ p.toInt ≤ 255
  · rw [if_pos hn]; simp [hn]
  · rw [if_neg hn]; simp only [hn, Except.error.injEq, not_false_eq_true, true_and]; exact eq_comm

theorem movMode_ok {s : State} {f : Word} {m : MovMode} :
    movMode s f = .ok m ↔ (f = 0 ∧ m = .register) ∨ (f = 1 ∧ m = .memory) := by
  unfold movMode
  by_cases h0 : f = 0
  · subst h0; simp [eq_comm]
  · rw [if_neg h0]
    by_cases h1 : f = 1
    · subst h1; simp [eq_comm]
    · rw [if_neg h1]; simp only [h0, h1, reduceCtorEq, false_and, or_self]

theorem movSource_ok {s : State} {m : MovMode} {a v : Word} :
    movSource s m a = .ok v ↔
      (m = .register ∧ ∃ i : Fin 8, a.toNat = i.val + 1 ∧ v = s.reg i) ∨
      (m = .memory ∧ inMemory a = true ∧ v = readCell s.mem a.toNat) := by
  cases m
  · simp only [movSource, bind_eq_ok, regIndex_ok, pure_eq_ok, Except.ok.injEq, true_and, reduceCtorEq, false_and,
      or_false, eq_comm (a := v)]
  · simp only [movSource, memRead_ok, reduceCtorEq, false_and, true_and, false_or]

theorem movDest_ok {s t : State} {m : MovMode} {a v : Word} :
    movDest s m a v = .ok t ↔
      (m = .register ∧ ∃ i : Fin 8, a.toNat = i.val + 1 ∧ t = s.setReg i v) ∨
      (m = .memory ∧ inMemory a = true ∧ t = s.setMem (writeCell s.mem a.toNat v)) := by
  cases m
  · simp only [movDest, bind_eq_ok, regIndex_ok, pure_eq_ok, Except.ok.injEq, true_and, reduceCtorEq, false_and,
      or_false, eq_comm (a := t)]
  · simp only [movDest, memWrite_ok, reduceCtorEq, false_and, true_and, false_or]

theorem popTwo_ok {s t : State} {a b : Word} :
    popTwo s = .ok (a, b, t) ↔ ∃ l, s.ws = a :: b :: l ∧ t = s.setWs l := by
  simp only [popTwo, bind_eq_ok, Prod.exists, pop_ok, pure_eq_ok, Except.ok.injEq, Prod.mk.injEq, State.stack_ws,
    State.setStack_ws]
  constructor
  · rintro ⟨a', s1, ⟨l, h1, rfl⟩, b', s2, ⟨l', h2, rfl⟩, rfl, rfl, rfl⟩
    rw [State.setWs_ws] at h2
    exact ⟨l', by rw [h1, h2], rfl⟩
  · rintro ⟨l, h, rfl⟩
    exact ⟨a, _, ⟨b :: l, h, rfl⟩, b, _, ⟨l, rfl, rfl⟩, rfl, rfl, rfl⟩

theorem popTwo_error {s : State} {f : CoreFault} :
    popTwo s = .error f ↔ s.ws.length < 2 ∧ f = .stackUnderflow s.pc .ws := by
  rcases hs : s.ws with _ | ⟨a, _ | ⟨b, l⟩⟩ <;>
    simp [popTwo, pop, hs, eq_comm]

theorem swapNumbers_ok {s t : State} {k1 k2 n1 n2 : Word} :
    swapNumbers s k1 k2 = .ok (n1, n2, t) ↔
      (s.params.swapOperands = .inline ∧ n1 = k1 ∧ n2 = k2 ∧ t = s) ∨
      (s.params.swapOperands = .stack ∧ ∃ l, s.ws = n1 :: n2 :: l ∧ t = s.setWs l) := by
  rcases h : s.params.swapOperands with _ | _
  · simp [swapNumbers, h, eq_comm]
  · simpa [swapNumbers, h, popTwo] using popTwo_ok (s := s) (t := t) (a := n1) (b := n2)

theorem arith_ok {s : State} {v : Int} {r : Word} :
    arith s v = .ok r ↔ (s.params.arithOverflow = .wrap ∨ fitsCell v = true) ∧ r = wrap32 v := by
  unfold arith
  rcases s.params.arithOverflow with _ | _
  · simp only [Except.ok.injEq, true_or, true_and, eq_comm (a := r)]
  · cases fitsCell v <;> simp [eq_comm (a := r)]

theorem arith_error {s : State} {v : Int} {f : CoreFault} :
    arith s v = .error f ↔
      s.params.arithOverflow = .fault ∧ fitsCell v = false ∧ f = .arithmeticFault s.pc .overflow := by
  unfold arith
  rcases s.params.arithOverflow with _ | _
  · simp
  · cases fitsCell v <;> simp [eq_comm (a := f)]

end Sys2Proof.Machine
end

