-- ==== Sys2Proof/Laws/Numeric.lean ====
section
/-! SUPPORT. The computed square root and power are the exact ones (42_arithmetic R169, R171). -/

namespace Sys2Proof.Machine

theorem isqrtFrom_spec {a n r : Nat} (h1 : r * r ≤ a) (h2 : a < (r + 2 ^ n) * (r + 2 ^ n)) :
    isqrtFrom a n r * isqrtFrom a n r ≤ a ∧ a < (isqrtFrom a n r + 1) * (isqrtFrom a n r + 1) := by
  induction n generalizing r with
  | zero => exact ⟨h1, by simpa [isqrtFrom] using h2⟩
  | succ n ih =>
    unfold isqrtFrom
    split
    · rename_i h
      refine ih h ?_
      have e : r + 2 ^ (n + 1) = r + 2 ^ n + 2 ^ n := by rw [pow_succ]; ring
      rwa [e] at h2
    · rename_i h
      exact ih h1 (not_le.1 h)

/-- `isqrt a` is the largest `r` with `r*r ≤ a`, for every cell value. -/
theorem isqrt_spec {a : Nat} (h : a < 4294967296) : isqrt a * isqrt a ≤ a ∧ a < (isqrt a + 1) * (isqrt a + 1) :=
  isqrtFrom_spec (n := 16) (r := 0) (by simp) (by simpa using h)

theorem wrap32_mul (m n : Int) : wrap32 (m * n) = wrap32 m * wrap32 n := BitVec.ofInt_mul ..

@[simp] theorem wrap32_toInt (v : Word) : wrap32 v.toInt = v := BitVec.ofInt_toInt

@[simp] theorem wrap32_one : wrap32 1 = 1 := rfl

theorem powFrom_wrap {n b : Nat} (A : Int) (h : b < 2 ^ n) : powFrom (wrap32 A) n b = wrap32 (A ^ b) := by
  induction n generalizing A b with
  | zero =>
    have : b = 0 := by simpa using h
    subst this
    rw [pow_zero]
    rfl
  | succ n ih =>
    have hb : b / 2 < 2 ^ n := by rw [pow_succ] at h; omega
    have e : A ^ b = A ^ (b % 2) * (A * A) ^ (b / 2) := by
      rw [← pow_two, ← pow_mul, ← pow_add, Nat.mod_add_div]
    rw [powFrom, ← wrap32_mul, ih (A * A) hb, e, wrap32_mul]
    rcases Nat.mod_two_eq_zero_or_one b with hm | hm <;> simp [hm]

/-- Repeated squaring gives the exact power reduced modulo 2^32. -/
theorem powFrom_eq (a : Word) {n b : Nat} (h : b < 2 ^ n) : powFrom a n b = wrap32 (a.toInt ^ b) := by
  rw [← powFrom_wrap a.toInt h, wrap32_toInt]

theorem powFits_eq (a : Int) (b : Nat) : powFits a b = fitsCell (a ^ b) := by
  by_cases h1 : a.natAbs ≤ 1
  · have ha : a = 0 ∨ a = 1 ∨ a = -1 := by omega
    simp only [powFits, h1, decide_true, Bool.true_or, fitsCell]
    symm
    rw [decide_eq_true_iff]
    rcases ha with rfl | rfl | rfl
    · rcases Nat.eq_zero_or_pos b with rfl | hb
      · norm_num
      · rw [zero_pow (by omega)]; norm_num
    · norm_num
    · rcases neg_one_pow_eq_or Int b with h | h <;> rw [h] <;> norm_num
  · by_cases h2 : b ≤ 31
    · simp [powFits, h1, h2]
    · have hn : (2 : Nat) ^ 32 ≤ (a ^ b).natAbs := by
        rw [Int.natAbs_pow]
        calc (2 : Nat) ^ 32 ≤ 2 ^ b := Nat.pow_le_pow_right (by norm_num) (by omega)
          _ ≤ a.natAbs ^ b := Nat.pow_le_pow_left (by omega) b
      simp only [powFits, h1, h2, decide_false, Bool.false_and, Bool.or_self, fitsCell]
      symm
      rw [decide_eq_false_iff_not]
      generalize a ^ b = c at hn ⊢
      omega

/-- `POW`'s value is `Arith` of the exact power (42_arithmetic R171). -/
theorem powArith_eq (s : State) (a b : Word) : powArith s a b = arith s (a.toInt ^ b.toNat) := by
  unfold powArith arith
  rw [powFrom_eq a (n := 32) b.isLt, powFits_eq]

end Sys2Proof.Machine
end

