-- ==== Sys2Proof/Laws/Opcodes.lean ====
section
/-! SUPPORT. The opcode map as a parameter (30_encoding R84 to R88): what a lookup answers, the default map, and that the
fetched value is the one `OPC` gives the row. -/

namespace Sys2Proof.Machine

/-- Every row is listed. -/
theorem mem_opcodes (o : Opcode) : o ∈ opcodes := by cases o <;> decide

/-- A row that is found has the value looked up (R84). -/
theorem findOpcode_value {opc : OpcodeMap} {op : Word} {o : Opcode} (h : findOpcode opc op = some o) : opc o = op := by
  simpa using List.find?_some h

/-- Nothing is found exactly for the values that no row has (R88). -/
theorem findOpcode_none {opc : OpcodeMap} {op : Word} : findOpcode opc op = none ↔ ∀ o, opc o ≠ op := by
  simp [findOpcode, List.find?_eq_none, mem_opcodes]

/-- Under a map that gives its rows different values, a row's value finds the row (R84). -/
theorem findOpcode_of_injective {opc : OpcodeMap} (h : Function.Injective opc) (o : Opcode) :
    findOpcode opc (opc o) = some o := by
  cases e : findOpcode opc (opc o) with
  | none => exact absurd rfl (findOpcode_none.1 e o)
  | some o' => rw [h (findOpcode_value e)]

/-- A map written out as data reads back as the map. -/
theorem opcodeMap_opcodeTable {c : Params} {opc : OpcodeMap} (h : c.opc = opcodeTable opc) : c.opcodeMap = opc := by
  funext o
  unfold Params.opcodeMap
  rw [h]
  cases o <;> rfl

/-- `OPC` has its default value in the default parameters (R86). -/
@[simp] theorem defaultParams_opcodeMap : defaultParams.opcodeMap = opcodeValue := opcodeMap_opcodeTable rfl

/-- The default map gives its rows different values (R86). -/
theorem opcodeValue_injective : Function.Injective opcodeValue := by
  have key : ∀ o, findOpcode opcodeValue (opcodeValue o) = some o := by intro o; cases o <;> decide
  intro a b h
  have e := key a
  rw [h, key b] at e
  exact (Option.some.inj e).symm

/-- The default map's values are bytes (R85). -/
theorem opcodeValue_le (o : Opcode) : (opcodeValue o).toNat ≤ 0xFF := by cases o <;> decide

/-- An instruction assembled from a row is of that row. -/
@[simp] theorem assemble_opcode (o : Opcode) (ks : List Word) : (assemble o ks).opcode = o := by cases o <;> rfl

/-- What a fetch answers: the opcode cell is in memory and holds the value `OPC` gives the instruction's row. -/
theorem fetch_ok {s : State} {i : Instr} (h : fetch s = .ok i) :
    inMemory s.pc = true ∧ s.params.opcodeMap i.opcode = readCell s.mem s.pc.toNat := by
  unfold fetch at h
  obtain ⟨op, hop, h⟩ := bind_eq_ok.1 h
  obtain ⟨hm, rfl⟩ := memRead_ok.1 hop
  split at h
  · cases h
  · rename_i o ho
    obtain ⟨ks, -, h⟩ := bind_eq_ok.1 h
    cases h
    exact ⟨hm, by rw [assemble_opcode, findOpcode_value ho]⟩

end Sys2Proof.Machine
end

