-- ==== Sys2Proof/Laws/PerInstr.lean ====
section
/-! SUPPORT. Facts about every instruction as syntax, one lemma per constructor. -/

namespace Sys2Proof.Laws

/-- The encoding of an instruction has the width of its row, at most five cells (30_encoding R81). -/
def EncodingWidth.Statement (i : Instr) : Prop := (encode i).length = i.width ∧ i.width ≤ 5

theorem width_le_five (i : Instr) : i.width ≤ 5 := by
  have h : ∀ o, operandCells o ≤ 4 := fun o => by cases o <;> decide
  exact Nat.add_le_add_left (h i.opcode) 1

theorem EncodingWidth.halt : EncodingWidth.Statement .halt := ⟨rfl, width_le_five _⟩

theorem EncodingWidth.loadR1 (k : Word) : EncodingWidth.Statement (.loadR1 k) := ⟨rfl, width_le_five _⟩

theorem EncodingWidth.loadR2 (k : Word) : EncodingWidth.Statement (.loadR2 k) := ⟨rfl, width_le_five _⟩

theorem EncodingWidth.loadR3 (k : Word) : EncodingWidth.Statement (.loadR3 k) := ⟨rfl, width_le_five _⟩

theorem EncodingWidth.loadR4 (k : Word) : EncodingWidth.Statement (.loadR4 k) := ⟨rfl, width_le_five _⟩

theorem EncodingWidth.loadR5 (k : Word) : EncodingWidth.Statement (.loadR5 k) := ⟨rfl, width_le_five _⟩

theorem EncodingWidth.loadR6 (k : Word) : EncodingWidth.Statement (.loadR6 k) := ⟨rfl, width_le_five _⟩

theorem EncodingWidth.loadR7 (k : Word) : EncodingWidth.Statement (.loadR7 k) := ⟨rfl, width_le_five _⟩

theorem EncodingWidth.loadR8 (k : Word) : EncodingWidth.Statement (.loadR8 k) := ⟨rfl, width_le_five _⟩

theorem EncodingWidth.add : EncodingWidth.Statement .add := ⟨rfl, width_le_five _⟩

theorem EncodingWidth.sub : EncodingWidth.Statement .sub := ⟨rfl, width_le_five _⟩

theorem EncodingWidth.push (n : Word) : EncodingWidth.Statement (.push n) := ⟨rfl, width_le_five _⟩

theorem EncodingWidth.pop (n : Word) : EncodingWidth.Statement (.pop n) := ⟨rfl, width_le_five _⟩

theorem EncodingWidth.equal : EncodingWidth.Statement .equal := ⟨rfl, width_le_five _⟩

theorem EncodingWidth.gth : EncodingWidth.Statement .gth := ⟨rfl, width_le_five _⟩

theorem EncodingWidth.lth : EncodingWidth.Statement .lth := ⟨rfl, width_le_five _⟩

theorem EncodingWidth.dup : EncodingWidth.Statement .dup := ⟨rfl, width_le_five _⟩

theorem EncodingWidth.pot (k : Word) : EncodingWidth.Statement (.pot k) := ⟨rfl, width_le_five _⟩

theorem EncodingWidth.ovr : EncodingWidth.Statement .ovr := ⟨rfl, width_le_five _⟩

theorem EncodingWidth.inc : EncodingWidth.Statement .inc := ⟨rfl, width_le_five _⟩

theorem EncodingWidth.dcr : EncodingWidth.Statement .dcr := ⟨rfl, width_le_five _⟩

theorem EncodingWidth.mov (f1 f2 a1 a2 : Word) : EncodingWidth.Statement (.mov f1 f2 a1 a2) := ⟨rfl, width_le_five _⟩

theorem EncodingWidth.str : EncodingWidth.Statement .str := ⟨rfl, width_le_five _⟩

theorem EncodingWidth.sqrt : EncodingWidth.Statement .sqrt := ⟨rfl, width_le_five _⟩

theorem EncodingWidth.abs : EncodingWidth.Statement .abs := ⟨rfl, width_le_five _⟩

theorem EncodingWidth.pow : EncodingWidth.Statement .pow := ⟨rfl, width_le_five _⟩

theorem EncodingWidth.dvo (p : Word) : EncodingWidth.Statement (.dvo p) := ⟨rfl, width_le_five _⟩

theorem EncodingWidth.dvw (p : Word) : EncodingWidth.Statement (.dvw p) := ⟨rfl, width_le_five _⟩

theorem EncodingWidth.swap (k1 k2 : Word) : EncodingWidth.Statement (.swap k1 k2) := ⟨rfl, width_le_five _⟩

theorem EncodingWidth.goto : EncodingWidth.Statement .goto := ⟨rfl, width_le_five _⟩

theorem EncodingWidth.jmp : EncodingWidth.Statement .jmp := ⟨rfl, width_le_five _⟩

theorem EncodingWidth.rmv : EncodingWidth.Statement .rmv := ⟨rfl, width_le_five _⟩

theorem EncodingWidth.jnz : EncodingWidth.Statement .jnz := ⟨rfl, width_le_five _⟩

theorem EncodingWidth.rpc : EncodingWidth.Statement .rpc := ⟨rfl, width_le_five _⟩

theorem EncodingWidth.ret : EncodingWidth.Statement .ret := ⟨rfl, width_le_five _⟩

end Sys2Proof.Laws
end

