-- ==== Sys2Proof/Laws/Step.lean ====
section
/-! SUPPORT. What one instruction and one step can do, said once: every handler ends in a commit, and a step is one of the
ten cases of `StepCase`. -/

namespace Sys2Proof.Machine

/-- A commit retires what the handler made, or takes the fault it raised. -/
theorem commit_next {i : Instr} {s u : State} {r : Except CoreFault State} :
    commit i s r = .next u ↔ (∃ t, r = .ok t ∧ u = retire i s t) ∨ (∃ f, r = .error f ∧ u = takeFault f s) := by
  cases r <;> simp [commit, eq_comm]

/-- Every commit is a next state. -/
theorem commit_isNext (i : Instr) (s : State) (r : Except CoreFault State) : ∃ t, commit i s r = .next t := by
  cases r <;> exact ⟨_, rfl⟩

/-- Every instruction ends in a next state. -/
theorem exec_isNext (i : Instr) (s : State) : ∃ t, exec i s = .next t := by
  cases i <;> (simp only [exec]; exact commit_isNext _ _ _)

/-- Fetching and executing ends in a next state. -/
theorem execOne_isNext (s : State) : ∃ t, execOne s = .next t := by
  unfold execOne
  cases fetch s
  · exact ⟨_, rfl⟩
  · exact exec_isNext _ _

/-- The cases of a step from `s` to `t`. -/
inductive StepCase (s t : State) : Prop where
  | idle (h : s.pending = []) (e : t = s)
  | reset (cs : List Command) (h : s.pending = .reset :: cs) (e : t = finish cs .none (resetCore s))
  | loadFails (p : List Int) (cs : List Command) (r : LoadReason) (h : s.pending = .load p :: cs)
      (hr : loadProblem p = some r) (e : t = finish cs (.failed (.programLoadError r)) s)
  | load (p : List Int) (cs : List Command) (h : s.pending = .load p :: cs) (hr : loadProblem p = none)
      (e : t = finish cs .ok (loadProgram p s))
  | halted (c : Command) (cs : List Command) (h : s.pending = c :: cs) (hc : c = .step ∨ c = .run)
      (hm : s.mode = .halted) (e : t = finishStatus cs s)
  | budgetUsedUp (cs : List Command) (h : s.pending = .step :: cs) (hm : s.mode = .running)
      (hb : budget s ≤ s.stepCount) (e : t = finishStatus cs (synthesizedHalt s))
  | step (cs : List Command) (u : State) (h : s.pending = .step :: cs) (hm : s.mode = .running)
      (hb : (s.stepCount : Int) < budget s) (hu : execOne s = .next u) (e : t = finishStatus cs (countRetired u))
  | run (cs : List Command) (u : State) (h : s.pending = .run :: cs) (hm : s.mode = .running)
      (hu : execOne s = .next u) (e : t = scanAfter u)
  | scan (cs : List Command) (h : s.pending = .scan :: cs) (e : t = finish cs .none (scan Config.font s))
  | draw (str : List Char) (x y scale color : Int) (cs : List Command)
      (h : s.pending = .drawString str x y scale color :: cs)
      (e : t = finish cs .none (drawString Config.font str x y scale color s))

/-- A step is one of its cases. -/
theorem step_cases {s t : State} (h : step s = .next t) : StepCase s t := by
  unfold step performNext at h
  split at h
  · injection h with e
    exact .idle ‹_› e.symm
  · rename_i c cs hp
    obtain ⟨u, hu⟩ := execOne_isNext s
    have running : ¬ s.mode = .halted → s.mode = .running := by cases s.mode <;> simp
    cases c <;> simp only [performCommand] at h
    · injection h with e
      exact .reset _ hp e.symm
    · split at h <;> injection h with e
      · exact .loadFails _ _ _ hp ‹_› e.symm
      · exact .load _ _ hp ‹_› e.symm
    · unfold stepQuantum at h
      split at h
      · injection h with e
        exact .halted _ _ hp (.inl rfl) ‹_› e.symm
      · rename_i hm
        split at h
        · injection h with e
          exact .budgetUsedUp _ hp (running hm) ‹_› e.symm
        · rw [hu] at h
          injection h with e
          exact .step _ u hp (running hm) (not_le.1 ‹_›) hu e.symm
    · split at h
      · injection h with e
        exact .halted _ _ hp (.inr rfl) ‹_› e.symm
      · rename_i hm
        simp only [runIteration, hu] at h
        injection h with e
        exact .run _ u hp (running hm) hu e.symm
    · injection h with e
      exact .scan _ hp e.symm
    · injection h with e
      exact .draw _ _ _ _ _ _ hp e.symm

/-- After a turn of `RUN` the bus was scanned, or nothing more happened. -/
theorem scanAfter_cases (t : State) : scanAfter t = t ∨ (scanAfter t = scan Config.font t ∧ faulted t = false) := by
  unfold scanAfter
  split
  · exact .inr ⟨rfl, by tauto⟩
  · exact .inl rfl

/-- The problem a `LOAD` does not have. -/
theorem loadProblem_none {p : List Int} :
    loadProblem p = none ↔ p.length ≤ Config.displayBase ∧ p.all fitsCell = true := by
  unfold loadProblem
  by_cases h : Config.displayBase < p.length
  · simp [h]
  · rw [if_neg h]
    cases p.all fitsCell <;> simp [not_lt.1 h]

end Sys2Proof.Machine
end

