-- ==== Sys2Proof/WellFormed.lean ====
section
/-! DEFINITION. Which operand cells the encoding calls legal (30_encoding R83). An ill-formed instruction still decodes
and still runs: it takes the fault of 60_exceptions R274. -/

namespace Sys2Proof

/-- A register number is 1..8 (00_scope R14). -/
def legalRegister (n : Word) : Bool :=
  decide (1 ≤ n.toInt ∧ n.toInt ≤ 8)

/-- A port number is 0..255 (00_scope R17). -/
def legalPort (p : Word) : Bool :=
  decide (0 ≤ p.toInt ∧ p.toInt ≤ 255)

/-- A memory address is `0 .. N-1` (20_memory R63). -/
def legalAddress (a : Word) : Bool :=
  decide (0 ≤ a.toInt ∧ a.toInt < Config.memCells)

/-- A `MOV` operand under its flag: flag 0 a register number, flag 1 a memory address, no other flag
(41_data_movement R138). -/
def legalMovOperand (f a : Word) : Bool :=
  if f = 0 then legalRegister a else if f = 1 then legalAddress a else false

/-- The instruction's operand cells are legal. For `SWAP` this is the `Inline` reading (41_data_movement R140). -/
def Instr.wellFormed : Instr → Bool
  | .push n | .pop n => legalRegister n
  | .swap k1 k2 => legalRegister k1 && legalRegister k2
  | .mov f1 f2 a1 a2 => legalMovOperand f1 a1 && legalMovOperand f2 a2
  | .dvo p | .dvw p => legalPort p
  | .halt | .loadR1 _ | .loadR2 _ | .loadR3 _ | .loadR4 _ | .loadR5 _ | .loadR6 _ | .loadR7 _ | .loadR8 _
  | .add | .sub | .equal | .gth | .lth | .dup | .pot _ | .ovr | .inc | .dcr | .str | .sqrt | .abs | .pow
  | .goto | .jmp | .rmv | .jnz | .rpc | .ret => true

end Sys2Proof
end

