-- ==== Sys2Proof/Tests/Slice0.lean ====
section
/-! SUPPORT. Tests: the legality checks, one written-out word per constructor (30_encoding R82, R86), single steps with
the results of 95_test_vectors, and for each statement a state that meets its hypotheses. -/

namespace Sys2Proof.Tests

open Sys2Proof.Machine Sys2Proof.Claims

/-! ## Legality (30_encoding R83): for each check an instruction it refuses -/

theorem test_wellFormed_refuses_register_0 : Instr.wellFormed (.push 0) = false := by decide
theorem test_wellFormed_refuses_register_9 : Instr.wellFormed (.pop 9) = false := by decide
theorem test_wellFormed_refuses_second_register : Instr.wellFormed (.swap 8 0xFFFFFFFF) = false := by decide
theorem test_wellFormed_refuses_port_256 : Instr.wellFormed (.dvo 256) = false := by decide
theorem test_wellFormed_refuses_negative_port : Instr.wellFormed (.dvw 0xFFFFFFFF) = false := by decide
theorem test_wellFormed_refuses_flag_2 : Instr.wellFormed (.mov 2 0 1 1) = false := by decide
theorem test_wellFormed_refuses_mov_register : Instr.wellFormed (.mov 0 0 1 9) = false := by decide
theorem test_wellFormed_refuses_mov_address : Instr.wellFormed (.mov 1 0 10485760 1) = false := by decide
theorem test_wellFormed_accepts : Instr.wellFormed (.mov 1 0 10485759 8) = true ∧ Instr.wellFormed (.dvw 255) = true := by
  decide

/-! ## Decoding: every row's word, written out from the opcode map and the formats (30_encoding R82, R86) -/

theorem test_decode_loads :
    decode [0x01, 11] = .ok (.loadR1 11, []) ∧ decode [0x02, 12] = .ok (.loadR2 12, []) ∧
    decode [0x03, 13] = .ok (.loadR3 13, []) ∧ decode [0x04, 14] = .ok (.loadR4 14, []) ∧
    decode [0x05, 15] = .ok (.loadR5 15, []) ∧ decode [0x06, 16] = .ok (.loadR6 16, []) ∧
    decode [0x07, 17] = .ok (.loadR7 17, []) ∧ decode [0x08, 18] = .ok (.loadR8 18, []) := by decide

theorem test_decode_data_movement :
    decode [0x0B, 2] = .ok (.push 2, []) ∧ decode [0x0C, 3] = .ok (.pop 3, []) ∧ decode [0x10] = .ok (.dup, []) ∧
    decode [0x11, 0x80000000] = .ok (.pot 0x80000000, []) ∧ decode [0x12] = .ok (.ovr, []) ∧
    decode [0x15, 0, 1, 3, 200] = .ok (.mov 0 1 3 200, []) ∧ decode [0x16] = .ok (.str, []) ∧
    decode [0x1C, 1, 2] = .ok (.swap 1 2, []) ∧ decode [0x1F] = .ok (.rmv, []) := by decide

theorem test_decode_arithmetic :
    decode [0x09] = .ok (.add, []) ∧ decode [0x0A] = .ok (.sub, []) ∧ decode [0x0D] = .ok (.equal, []) ∧
    decode [0x0E] = .ok (.gth, []) ∧ decode [0x0F] = .ok (.lth, []) ∧ decode [0x13] = .ok (.inc, []) ∧
    decode [0x14] = .ok (.dcr, []) ∧ decode [0x17] = .ok (.sqrt, []) ∧ decode [0x18] = .ok (.abs, []) ∧
    decode [0x19] = .ok (.pow, []) := by decide

theorem test_decode_control_and_io :
    decode [0x00] = .ok (.halt, []) ∧ decode [0x1D] = .ok (.goto, []) ∧ decode [0x1E] = .ok (.jmp, []) ∧
    decode [0x20] = .ok (.jnz, []) ∧ decode [0x21] = .ok (.rpc, []) ∧ decode [0x22] = .ok (.ret, []) ∧
    decode [0x1A, 25] = .ok (.dvo 25, []) ∧ decode [0x1B, 16] = .ok (.dvw 16, []) := by decide

/-- Vectors G-08, G-09: the whole cell is the opcode. -/
theorem test_decode_refuses :
    decode [0x1CF] = .error (.unknownOpcode 0x1CF) ∧ decode [0x23] = .error (.unknownOpcode 0x23) ∧
    decode [0xFFFFFFFF] = .error (.unknownOpcode 0xFFFFFFFF) ∧ decode [0x15, 0, 0, 1] = .error (.truncated .mov) ∧
    decode [] = .error .noCells := by decide

/-- A table row's word: bit 0 is the lowest bit of the opcode cell; operand cells beyond `nbits` are 0. -/
theorem test_decodeTableWord :
    decodeTableWord 32 0x21 = some .rpc ∧ decodeTableWord 64 (0x0C + 7 * 2 ^ 32) = some (.pop 7) ∧
    decodeTableWord 32 0x15 = some (.mov 0 0 0 0) ∧ decodeTableWord 32 0x23 = none := by decide

/-- The disassembly of 30_encoding R94. -/
theorem test_disassemble_registers : disassemble (.swap 1 2) = "SWAP R1, R2" := by decide
theorem test_disassemble_load : disassemble (.loadR3 0xFFFFFFFF) = "LOAD R3, -1" := by decide

/-! ## Single steps -/

/-- Right after a load, about to run (70_reset_and_hazards R296). -/
def start : State := { State.reset with mode := .running, steps := 1, pending := [.run] }

/-- The core with the working stack `ws`, top first. -/
def onStack (ws : List Word) : State := { start with ws := ws }

/-- The state after one step that runs the cells `ks`, placed at `pc`. -/
def after (s : State) (ks : List Word) : Option State :=
  match step { s with mem := placeCells s.mem s.pc.toNat ks } with
  | .next t => some t
  | _ => none

/-- The working stack and `pc` after running `ks`. -/
def stackAfter (s : State) (ks : List Word) : Option (List Word × Word) := (after s ks).map fun t => (t.ws, t.pc)

/-- The halt cause after running `ks`. -/
def causeAfter (s : State) (ks : List Word) : Option Cause := (after s ks).map fun t => t.cause

/-- `ARITH_OVERFLOW = Fault`. -/
def faulting (s : State) : State := { s with params := { s.params with arithOverflow := .fault } }

-- M-01, M-02
theorem test_load_r1 : ((after start [0x01, 5]).map fun t => (t.x, t.pc)) = some (#v[5, 0, 0, 0, 0, 0, 0, 0], 2) := by
  decide
theorem test_load_r2 : ((after start [0x02, 5]).map fun t => t.x) = some #v[0, 5, 0, 0, 0, 0, 0, 0] := by decide
theorem test_load_r3 : ((after start [0x03, 5]).map fun t => t.x) = some #v[0, 0, 5, 0, 0, 0, 0, 0] := by decide
theorem test_load_r4 : ((after start [0x04, 5]).map fun t => t.x) = some #v[0, 0, 0, 5, 0, 0, 0, 0] := by decide
theorem test_load_r5 : ((after start [0x05, 5]).map fun t => t.x) = some #v[0, 0, 0, 0, 5, 0, 0, 0] := by decide
theorem test_load_r6 : ((after start [0x06, 5]).map fun t => t.x) = some #v[0, 0, 0, 0, 0, 5, 0, 0] := by decide
theorem test_load_r7 : ((after start [0x07, 5]).map fun t => t.x) = some #v[0, 0, 0, 0, 0, 0, 5, 0] := by decide
theorem test_load_r8 : ((after start [0x08, 0xFFFFFFFF]).map fun t => t.x) =
    some #v[0, 0, 0, 0, 0, 0, 0, 0xFFFFFFFF] := by decide

-- M-03, M-06
theorem test_push : stackAfter { start with x := #v[0, 7, 0, 0, 0, 0, 0, 0] } [0x0B, 2] = some ([7], 2) := by
  decide
theorem test_push_full : causeAfter (onStack (List.replicate 256 1)) [0x0B, 1] =
    some (.fault (.stackOverflow 0 .ws)) := by decide +kernel

-- M-08, M-07
theorem test_pop : ((after (onStack [9, 3]) [0x0C, 1]).map fun t => (t.x[0], t.ws)) = some (9, [3]) := by decide
theorem test_pop_operand_first : causeAfter start [0x0C, 9] = some (.fault (.illegalOperand 0 9)) := by decide

-- M-10
theorem test_pot : stackAfter start [0x11, 0x80000000] = some ([0x80000000], 2) := by decide

-- M-11, M-13, M-14, M-15
theorem test_dup : stackAfter (onStack [4]) [0x10] = some ([4, 4], 1) := by decide
theorem test_ovr : stackAfter (onStack [2, 1]) [0x12] = some ([1, 2, 1], 1) := by decide
theorem test_ovr_short : causeAfter (onStack [2]) [0x12] = some (.fault (.stackUnderflow 0 .ws)) := by decide
theorem test_rmv : stackAfter (onStack [6, 5]) [0x1F] = some ([5], 1) := by decide

-- M-16, M-17
theorem test_str : ((after (onStack [100, 42]) [0x16]).map fun t => (readCell t.mem 100, t.ws)) = some (42, []) := by
  decide
theorem test_str_outside : ((after (onStack [10485760, 42]) [0x16]).map fun t => (t.ws, t.cause)) =
    some ([10485760, 42], .fault (.memoryFault 0 10485760)) := by decide

-- M-24, M-29
theorem test_mov : ((after { start with mem := [(300, 8)] } [0x15, 1, 0, 300, 4]).map fun t => (t.x[3], t.pc)) =
    some (8, 5) := by decide
theorem test_mov_past_the_end : causeAfter { start with pc := 10485757 } [0x15] =
    some (.fault (.memoryFault 10485757 10485760)) := by decide

-- M-30, M-33
theorem test_swap : ((after { start with x := #v[1, 2, 0, 0, 0, 0, 0, 0] } [0x1C, 1, 2]).map fun t => (t.x[0], t.x[1], t.pc))
    = some (2, 1, 3) := by decide
theorem test_swap_stack :
    ((after { onStack [1, 2] with x := #v[1, 2, 0, 0, 0, 0, 0, 0], params := { defaultParams with swapOperands := .stack } }
      [0x1C]).map fun t => (t.x[0], t.x[1], t.ws)) = some (2, 1, []) := by decide

-- A-03, A-04
theorem test_add_wraps : stackAfter (onStack [0x7FFFFFFF, 1]) [0x09] = some ([0x80000000], 1) := by decide
theorem test_add_faults : ((after (faulting (onStack [0x7FFFFFFF, 1])) [0x09]).map fun t => (t.ws, t.cause)) =
    some ([0x7FFFFFFF, 1], .fault (.arithmeticFault 0 .overflow)) := by decide

-- A-05, A-07
theorem test_sub_order : stackAfter (onStack [3, 10]) [0x0A] = some ([0xFFFFFFF9], 1) := by decide
theorem test_sub_wraps : stackAfter (onStack [0x80000000, 1]) [0x0A] = some ([0x7FFFFFFF], 1) := by decide

-- A-12, E5
theorem test_equal : stackAfter (onStack [7, 7]) [0x0D] = some ([0], 1) := by decide
theorem test_equal_not : stackAfter (onStack [5, 1]) [0x0D] = some ([1], 1) := by decide
-- A-08, A-09
theorem test_gth_not : stackAfter (onStack [0xFFFFFFFE, 0xFFFFFFFF]) [0x0E] = some ([1], 1) := by decide
theorem test_gth : stackAfter (onStack [0xFFFFFFFF, 0xFFFFFFFE]) [0x0E] = some ([0], 1) := by decide
-- A-10, A-11
theorem test_lth_signed : stackAfter (onStack [0x80000000, 0]) [0x0F] = some ([0], 1) := by decide
theorem test_lth_not : stackAfter (onStack [7, 7]) [0x0F] = some ([1], 1) := by decide

-- A-14, A-16
theorem test_inc_wraps : stackAfter (onStack [0x7FFFFFFF]) [0x13] = some ([0x80000000], 1) := by decide
theorem test_dcr : stackAfter (onStack [0]) [0x14] = some ([0xFFFFFFFF], 1) := by decide

-- A-21, A-22
theorem test_sqrt : stackAfter (onStack [2147483647]) [0x17] = some ([46340], 1) := by decide
theorem test_sqrt_negative : causeAfter (onStack [0xFFFFFFFF]) [0x17] =
    some (.fault (.arithmeticFault 0 .negativeSqrt)) := by decide

-- A-24
theorem test_abs : stackAfter (onStack [0x80000000]) [0x18] = some ([0x80000000], 1) := by decide
theorem test_abs_faults : causeAfter (faulting (onStack [0x80000000])) [0x18] =
    some (.fault (.arithmeticFault 0 .overflow)) := by decide

-- A-25, A-29
theorem test_pow : stackAfter (onStack [2, 10]) [0x19] = some ([1024], 1) := by decide
theorem test_pow_in_range : stackAfter (faulting (onStack [0xFFFFFFFE, 31])) [0x19] = some ([0x80000000], 1) := by
  decide

-- C-02
theorem test_halt :
    ((after { start with mem := [(10005760, 1)], dev := [(16, 1)], pc := 5 } [0x00]).map fun t =>
      (t.mem, t.dev, t.pc, t.cause)) = some ([(10005760, 1)], [(16, 1)], 0, .halt false) := by decide

-- C-03, C-04
theorem test_goto : stackAfter { onStack [40] with pc := 12 } [0x1D] = some ([13, 40], 40) := by decide
theorem test_goto_empty : causeAfter { start with pc := 12 } [0x1D] = some (.fault (.stackUnderflow 12 .ws)) := by
  decide

-- 43_control_transfer R196, R190
theorem test_jmp : stackAfter (onStack [0xFFFFFFFF, 1]) [0x1E] = some ([1], 0xFFFFFFFF) := by decide
-- R200: the target is popped only when the branch is taken
theorem test_jnz_taken : stackAfter (onStack [2, 40]) [0x20] = some ([], 40) := by decide
theorem test_jnz_not_taken : stackAfter (onStack [0, 40]) [0x20] = some ([40], 1) := by decide
-- R203, R205
theorem test_rpc : stackAfter { start with pc := 9 } [0x21] = some ([9], 10) := by decide
theorem test_ret : ((after { onStack [5] with rs := [1] } [0x22]).map fun t => (t.ws, t.rs)) = some ([], [5, 1]) := by
  decide

-- D-03, D-02
theorem test_dvo_low_byte : ((after { start with dev := [(25, 321)] } [0x1A, 25]).map fun t => t.console) =
    some [(.stdout, 0x41)] := by decide
theorem test_dvo_stderr : ((after { start with dev := [(24, 0x45)] } [0x1A, 24]).map fun t => t.console) =
    some [(.stderr, 0x45)] := by decide
-- D-10, D-11
theorem test_dvw_cell : ((after (onStack [257]) [0x1B, 16]).map fun t => t.dev) = some [(16, 257)] := by decide
theorem test_dvw_byte :
    ((after { onStack [257] with params := { defaultParams with portStore := .byte } } [0x1B, 16]).map fun t => t.dev) =
      some [(16, 1)] := by decide

-- G-02: the trace record of a synthesized HALT
theorem test_synthesized_halt :
    (match step { start with steps := 0, pending := [.step] } with
      | .next t => (t.trace, t.cause, t.stepCount)
      | _ => ([], .none, 1)) =
    ([⟨0, 0, .halt, [], [], Vector.replicate 8 0, [], true⟩], .halt true, 0) := by decide

/-- `STATUS` carries the halt state and the two counters (10_state R45), `step` as counted by the `STEP` (40_engine R108). -/
theorem test_status :
    (match step { start with mem := [(0, 0x21)], pending := [.step] } with
      | .next t => t.reply
      | _ => .none) = .status ⟨.running, .none, 1, 1⟩ := by decide

/-- Another build's map (30_encoding R87): `POT` is 0x30, every other row has its default value. -/
def otherMap (s : State) : State :=
  { s with params := { s.params with opc := opcodeTable fun o => if o = .pot then 0x30 else opcodeValue o } }

theorem test_other_map_runs :
    ((after (otherMap start) [0x30, 3]).map fun t => (t.ws, t.trace.map fun r => (r.op, r.mnemonic))) =
      some ([3], [(0x30, .pot)]) := by decide
theorem test_other_map_has_no_0x11 : causeAfter (otherMap start) [0x11, 3] = some (.fault (.unknownOpcode 0 0x11)) := by
  decide

-- G-05
theorem test_load_bad_token :
    (match step { State.reset with pending := [.load [0x11, 2147483648]] } with
      | .next t => (t.mode, t.reply)
      | _ => (.running, .none)) = (.halted, .failed (.programLoadError .badToken)) := by decide

-- 70_reset_and_hazards R293, E1
theorem test_load_program :
    (match step { State.reset with pending := [.load [0x11, 3, 0x11, 4, 0x09, 0x00]] } with
      | .next t => (t.mem, t.x[7], t.steps, t.mode)
      | _ => ([], 0, 0, .halted)) = ([(0, 0x11), (1, 3), (2, 0x11), (3, 4), (4, 9)], 6, 6, .running) := by decide

/-- The next step runs the placed word: `POT 3` as the first instruction after reset. -/
theorem test_withFetchWord :
    (match step (State.reset.withFetchWord 64 (0x11 + 3 * 2 ^ 32)) with
      | .next t => (t.ws, t.pc)
      | _ => ([], 0)) = ([3], 2) := by decide

/-! ## The bus and the display, with the test fonts of 95_test_vectors -/

/-- Every bit of every glyph. -/
def t1 : Font := fun _ _ _ => true

/-- Bit `[0][0]` of every glyph. -/
def t2 : Font := fun _ i j => i == 0 && j == 0

/-- The record `r` at `DISPLAY_BASE`, a sentinel after it, and the ports `d`. -/
def display (r : List Word) (d : Store 32) : State := { State.reset with mem := placeCells [] 10005760 r, dev := d }

/-- The five cells of the first slot. -/
def firstSlot (s : State) : List Word := (List.range 5).map fun k => readCell s.mem (10005760 + k)

-- V-01, V-02
theorem test_compat : (scan t2 (display [1, 10, 0, 2, 0xFFF] [(16, 1)])).pix =
    [(16000, 0xFFF), (16001, 0xFFF), (16800, 0xFFF), (16801, 0xFFF)] := by decide +kernel
theorem test_rowMajor :
    (scan t2 { display [1, 10, 0, 2, 0xFFF] [(16, 1)] with params := { defaultParams with rasterMode := .rowMajor } }).pix =
      [(20, 0xFFF), (21, 0xFFF), (820, 0xFFF), (821, 0xFFF)] := by decide +kernel
-- V-03
theorem test_colour_low_bits : (scan t1 (display [1, 0, 0, 1, 0x1234] [(16, 1)])).pix.map (fun c => c.2) =
    List.replicate 25 0x234 := by decide +kernel
-- V-09: no pixel, and the coordinates wrap
theorem test_coordinates_wrap :
    (let t := scan t2 (display [1, 0x7FFFFFFF, 0x7FFFFFFF, 1, 0xFFF] [(16, 1)]); (t.pix, firstSlot t)) =
      ([], [1, 0x80000000, 0x80000000, 1, 0xFFF]) := by decide +kernel
-- V-07, V-08
theorem test_unmapped_stop :
    firstSlot (scan t2 { display [27, 5, 5, 1, 0xFFF] [(16, 1)] with
      params := { defaultParams with unmappedCodepoint := .stop } }) = [27, 5, 5, 1, 0xFFF] := by decide +kernel
theorem test_unmapped_blank : firstSlot (scan t2 (display [0xFFFFFFFF, 5, 5, 1, 0xFFF] [(16, 1)])) =
    [0xFFFFFFFF, 6, 6, 1, 0xFFF] := by decide +kernel
-- B-06: two frames; B-03, B-04: none
theorem test_two_ports : firstSlot (scan t2 (display [1, 0, 0, 1, 0xFFF] [(16, 1), (31, 1)])) = [1, 2, 2, 1, 0xFFF] := by
  decide +kernel
theorem test_no_trigger : firstSlot (scan t2 (display [1, 0, 0, 1, 0xFFF] [(3, 1), (16, 2), (64, 1)])) =
    [1, 0, 0, 1, 0xFFF] := by decide +kernel
-- B-08
theorem test_port_cleared :
    (scan t2 { display [1, 0, 0, 1, 0xFFF] [(16, 1)] with params := { defaultParams with displayClearsPort := true } }).dev =
      [] := by decide +kernel
-- S-01, S-03 (with T2: one pixel per letter)
theorem test_draw_string : (drawString t2 ['A', 'B'] 0 0 1 0xFFF State.reset).pix = [(0, 0xFFF), (4800, 0xFFF)] := by
  decide
theorem test_draw_string_space : (drawString t2 [' ', 'A'] 0 0 1 0xFFF State.reset).pix = [(4800, 0xFFF)] := by
  decide

/-! ## For each statement with hypotheses, states and operands that meet them: one for each clause, at boundary values -/

/-- The last `k` cells of memory hold the opcode `op` and zeros, and `pc` is there: operand cell `k` is outside. -/
def edge (op : Word) (k : Nat) (c : Command) : State :=
  { start with pc := BitVec.ofNat 32 (10485760 - k), mem := [(10485760 - k, op)], pending := [c] }

/-- The default `OPC` gives its rows different values. -/
theorem edge_injective (op : Word) (k : Nat) (c : Command) : Function.Injective (edge op k c).params.opcodeMap := by
  rw [show (edge op k c).params.opcodeMap = opcodeValue from defaultParams_opcodeMap]
  exact opcodeValue_injective

/-- The hypotheses of `OperandCellFaults o k` that can be decided, met by `edge op k` when `op` is the value of `o`. -/
abbrev EdgeAt (o : Opcode) (op : Word) (k : Nat) : Prop :=
  (edge op k .run).mode = .running ∧ (edge op k .run).params.swapOperands = .inline ∧ IsCell (edge op k .run).pc ∧
  readCell (edge op k .run).mem (edge op k .run).pc.toNat = (edge op k .run).params.opcodeMap o ∧
  (∀ j < k, 1 ≤ j → IsCell ((edge op k .run).pc + BitVec.ofNat 32 j)) ∧
  ¬ IsCell ((edge op k .run).pc + BitVec.ofNat 32 k)

/-- All the hypotheses of `OperandCellFaults o k`. -/
abbrev EdgeMeets (o : Opcode) (op : Word) (k : Nat) : Prop :=
  Function.Injective (edge op k .run).params.opcodeMap ∧ EdgeAt o op k

theorem edgeMeets {o : Opcode} {op : Word} {k : Nat} (h : EdgeAt o op k) : EdgeMeets o op k := ⟨edge_injective _ _ _, h⟩

theorem witness_LoadWritesItsRegister :
    EdgeMeets .loadR1 0x01 1 ∧ EdgeMeets .loadR2 0x02 1 ∧ EdgeMeets .loadR3 0x03 1 ∧ EdgeMeets .loadR4 0x04 1 ∧
    EdgeMeets .loadR5 0x05 1 ∧ EdgeMeets .loadR6 0x06 1 ∧ EdgeMeets .loadR7 0x07 1 ∧ EdgeMeets .loadR8 0x08 1 :=
  ⟨edgeMeets (by decide), edgeMeets (by decide), edgeMeets (by decide), edgeMeets (by decide), edgeMeets (by decide),
    edgeMeets (by decide), edgeMeets (by decide), edgeMeets (by decide)⟩

/-- The opcode map gives its rows different values. -/
theorem witness_DecodeOfEncodeIsTheInstruction : Function.Injective opcodeValue := opcodeValue_injective

theorem witness_EncodeOfDecodeIsTheCells : decode [0x15, 0, 1, 3, 200, 0x09] = .ok (.mov 0 1 3 200, [0x09]) := by decide

/-- A working stack of `n` values. -/
def deep (n : Nat) : State := onStack (List.replicate n 3)

theorem witness_PushPushesTheRegister :
    EdgeMeets .push 0x0B 1 ∧ (Names 1 0 ∧ Names 8 7 ∧ (deep 255).ws.length < Config.wsCap) ∧ (¬ IsReg 0 ∧ ¬ IsReg 9) ∧
    (IsReg 8 ∧ (deep 256).ws.length = Config.wsCap) := ⟨edgeMeets (by decide), by decide +kernel⟩

theorem witness_PopPopsIntoTheRegister :
    EdgeMeets .pop 0x0C 1 ∧ (Names 8 7 ∧ (onStack [9]).ws = 9 :: []) ∧ (¬ IsReg 0 ∧ ¬ IsReg 9) ∧
    (IsReg 1 ∧ start.ws = []) := ⟨edgeMeets (by decide), by decide⟩

theorem witness_PotPushesTheLiteral :
    EdgeMeets .pot 0x11 1 ∧ (deep 255).ws.length < Config.wsCap ∧ (deep 256).ws.length = Config.wsCap :=
  ⟨edgeMeets (by decide), by decide +kernel⟩

theorem witness_DupDuplicatesTheTop :
    (deep 0).ws.length < 1 ∧ ((deep 255).ws = 3 :: List.replicate 254 3 ∧ (deep 255).ws.length < Config.wsCap) ∧
    (deep 256).ws.length = Config.wsCap := by decide +kernel

theorem witness_OvrDuplicatesTheSecond :
    (deep 1).ws.length < 2 ∧ ((deep 255).ws = 3 :: 3 :: List.replicate 253 3 ∧ (deep 255).ws.length < Config.wsCap) ∧
    (deep 256).ws.length = Config.wsCap := by decide +kernel

theorem witness_RmvDiscardsTheTop : (deep 0).ws.length < 1 ∧ (onStack [6]).ws = 6 :: [] := by decide

theorem witness_StrStoresTheValue :
    (deep 1).ws.length < 2 ∧
    ((onStack [10485759, 5]).ws = 10485759 :: 5 :: [] ∧ IsCell 10485759 ∧ IsCell 0 ∧ Memory.wf start.mem) ∧
    ((onStack [10485760, 5]).ws = 10485760 :: 5 :: [] ∧ ¬ IsCell 10485760 ∧ ¬ IsCell 0xFFFFFFFF) := by decide

theorem witness_MovMovesOneCell :
    (EdgeMeets .mov 0x15 1 ∧ EdgeMeets .mov 0x15 2 ∧ EdgeMeets .mov 0x15 3 ∧ EdgeMeets .mov 0x15 4) ∧
    (Names 1 0 ∧ Names 8 7 ∧ IsCell 0 ∧ IsCell 10485759 ∧ Memory.wf start.mem) ∧
    ((2 : Word) ≠ 0 ∧ (2 : Word) ≠ 1 ∧ (0xFFFFFFFF : Word) ≠ 0 ∧ (0xFFFFFFFF : Word) ≠ 1) ∧
    (¬ IsReg 0 ∧ ¬ IsReg 9 ∧ ¬ IsCell 10485760 ∧ ¬ IsCell 0xFFFFFFFF) ∧ (IsReg 1 ∧ IsReg 8) :=
  ⟨⟨edgeMeets (by decide), edgeMeets (by decide), edgeMeets (by decide), edgeMeets (by decide)⟩, by decide⟩

theorem witness_SwapExchangesTwoRegisters :
    EdgeMeets .swap 0x1C 1 ∧ EdgeMeets .swap 0x1C 2 ∧ (start.params.swapOperands = .inline ∧ Names 1 0 ∧ Names 8 7) ∧
    (¬ IsReg 0 ∧ ¬ IsReg 9 ∧ IsReg 8) := ⟨edgeMeets (by decide), edgeMeets (by decide), by decide⟩

/-- `SWAP_OPERANDS = Stack`, at a `SWAP` in the last cell of memory. -/
def swapStack (ws : List Word) : State :=
  { edge 0x1C 1 .run with ws := ws, params := { defaultParams with swapOperands := .stack } }

theorem witness_SwapPopsItsOperandsUnderStack :
    ((swapStack [1, 8]).params.swapOperands = .stack ∧ (swapStack [1, 8]).ws = 1 :: 8 :: [] ∧ Names 1 0 ∧ Names 8 7) ∧
    (swapStack [1]).ws.length < 2 ∧ ((swapStack [0, 1]).ws = 0 :: 1 :: [] ∧ ¬ IsReg 0) ∧
    ((swapStack [8, 9]).ws = 8 :: 9 :: [] ∧ IsReg 8 ∧ ¬ IsReg 9) ∧
    ((swapStack []).mode = .running ∧ IsCell (swapStack []).pc ∧
      readCell (swapStack []).mem (swapStack []).pc.toNat = (swapStack []).params.opcodeMap .swap) ∧
    Function.Injective (swapStack []).params.opcodeMap :=
  ⟨by decide, by decide, by decide, by decide, by decide, by
    rw [show (swapStack []).params.opcodeMap = opcodeValue from opcodeMap_opcodeTable rfl]
    exact opcodeValue_injective⟩

theorem witness_PushPopRoundTrips :
    (IsReg 8 ∧ (deep 255).ws.length < Config.wsCap) ∧
    (Names 8 7 ∧ (deep 256).ws = 3 :: List.replicate 255 3 ∧ (deep 256).ws.length ≤ Config.wsCap) := by decide +kernel

/-- What the two-operand instructions need: a full stack, and each case of `ARITH_OVERFLOW`. -/
theorem witness_binary_arithmetic :
    (deep 1).ws.length < 2 ∧ ((deep 256).ws = 3 :: 3 :: List.replicate 254 3 ∧ (deep 256).ws.length ≤ Config.wsCap) ∧
    (deep 256).params.arithOverflow = .wrap ∧ (faulting (deep 256)).params.arithOverflow = .fault := by decide +kernel

theorem witness_AddPushesTheSum :
    InRange ((0x7FFFFFFF : Word).toInt + (0 : Word).toInt) ∧ ¬ InRange ((0x7FFFFFFF : Word).toInt + (1 : Word).toInt) ∧
    (faulting (onStack [0x7FFFFFFF, 1])).ws = 0x7FFFFFFF :: 1 :: [] := by decide

theorem witness_SubPushesTopMinusSecond :
    InRange ((0x80000000 : Word).toInt - (0 : Word).toInt) ∧ ¬ InRange ((0x80000000 : Word).toInt - (1 : Word).toInt) ∧
    (faulting (onStack [0x80000000, 1])).ws = 0x80000000 :: 1 :: [] := by decide

theorem witness_ComparisonsPushInvertedBooleans :
    (deep 1).ws.length < 2 ∧ ((deep 256).ws = 3 :: 3 :: List.replicate 254 3 ∧ (deep 256).ws.length ≤ Config.wsCap) ∧
    ((7 : Word).toInt = (7 : Word).toInt ∧ (7 : Word).toInt ≠ (8 : Word).toInt) ∧
    ((0 : Word).toInt > (0xFFFFFFFF : Word).toInt ∧ ¬ (0 : Word).toInt > (0 : Word).toInt) ∧
    ((0xFFFFFFFF : Word).toInt < (0 : Word).toInt ∧ ¬ (0 : Word).toInt < (0 : Word).toInt) := by decide +kernel

theorem witness_IncAndDcrChangeTheTop :
    (deep 0).ws.length < 1 ∧ (faulting (onStack [0x7FFFFFFF])).ws = 0x7FFFFFFF :: [] ∧
    (faulting (onStack [0x7FFFFFFF])).params.arithOverflow = .fault ∧ (onStack [0]).params.arithOverflow = .wrap ∧
    InRange ((0x7FFFFFFE : Word).toInt + 1) ∧ ¬ InRange ((0x7FFFFFFF : Word).toInt + 1) ∧
    InRange ((0x80000001 : Word).toInt - 1) ∧ ¬ InRange ((0x80000000 : Word).toInt - 1) := by decide

theorem witness_SqrtPushesTheFloorRoot :
    (deep 0).ws.length < 1 ∧ ((onStack [0]).ws = 0 :: [] ∧ (onStack [0]).ws.length ≤ Config.wsCap ∧ 0 ≤ (0 : Word).toInt) ∧
    ((onStack [0xFFFFFFFF]).ws = 0xFFFFFFFF :: [] ∧ (0xFFFFFFFF : Word).toInt < 0) := by decide

theorem witness_AbsPushesTheAbsoluteValue :
    (deep 0).ws.length < 1 ∧
    ((faulting (onStack [0x80000001])).ws = 0x80000001 :: [] ∧ (onStack [0x80000001]).ws.length ≤ Config.wsCap ∧
      (0x80000001 : Word).toInt ≠ -2147483648) ∧
    ((faulting (onStack [0x80000000])).params.arithOverflow = .fault ∧ (0x80000000 : Word).toInt = -2147483648) := by
  decide

theorem witness_PowPushesTheExactPower :
    (deep 1).ws.length < 2 ∧
    ((onStack [2, 0]).ws = 2 :: 0 :: [] ∧ (onStack [2, 0]).ws.length ≤ Config.wsCap ∧ 0 ≤ (0 : Word).toInt ∧
      InRange ((2 : Word).toInt ^ (30 : Word).toNat)) ∧
    ((onStack [2, 0xFFFFFFFF]).ws = 2 :: 0xFFFFFFFF :: [] ∧ (0xFFFFFFFF : Word).toInt < 0) ∧
    ((faulting (onStack [2, 31])).ws = 2 :: 31 :: [] ∧ (faulting (onStack [2, 31])).params.arithOverflow = .fault ∧
      ¬ InRange ((2 : Word).toInt ^ (31 : Word).toNat)) := by decide

theorem witness_GotoCallsWithReturnAddress :
    ((deep 254).ws = 3 :: List.replicate 253 3 ∧ (deep 254).ws.length + 2 ≤ Config.wsCap) ∧
    (deep 256).ws.length = Config.wsCap ∧ (deep 255).ws.length + 1 = Config.wsCap ∧ (deep 0).ws.length < 1 := by
  decide +kernel

theorem witness_JmpPopsItsTarget : (deep 0).ws.length < 1 ∧ (onStack [0xFFFFFFFF]).ws = 0xFFFFFFFF :: [] := by
  decide

theorem witness_JnzBranchesOnNonzero :
    (deep 0).ws.length < 1 ∧ ((onStack [1, 40]).ws = 1 :: 40 :: [] ∧ (1 : Word) ≠ 0) ∧ (onStack [1]).ws = [1] ∧
    (onStack [0]).ws = 0 :: [] := by decide

theorem witness_RpcPushesItsAddress :
    (deep 255).ws.length < Config.wsCap ∧ (deep 256).ws.length = Config.wsCap := by decide +kernel

theorem witness_RetMovesToTheReturnStack :
    (deep 0).ws.length < 1 ∧
    ((onStack [5]).ws = 5 :: [] ∧ ({ onStack [5] with rs := List.replicate 255 0 } : State).rs.length < Config.rsCap) ∧
    ({ onStack [5] with rs := List.replicate 256 0 } : State).rs.length = Config.rsCap := by decide +kernel

theorem witness_DvoEmitsTheLowByte :
    EdgeMeets .dvo 0x1A 1 ∧ (IsPort 0 ∧ IsPort 255 ∧ (255 : Word) ≠ 24 ∧ (255 : Word) ≠ 25) ∧
    (¬ IsPort 256 ∧ ¬ IsPort 0xFFFFFFFF) := ⟨edgeMeets (by decide), by decide⟩

theorem witness_DvwWritesThePort :
    EdgeMeets .dvw 0x1B 1 ∧
    (IsPort 0 ∧ IsPort 255 ∧ (onStack [257]).ws = 257 :: [] ∧ Store.canonical start.dev ∧ start.params.portStore = .cell) ∧
    ({ start with params := { defaultParams with portStore := .byte } } : State).params.portStore = .byte ∧
    (¬ IsPort 256 ∧ ¬ IsPort 0xFFFFFFFF) ∧ start.ws = [] := ⟨edgeMeets (by decide), by decide⟩

/-- `POT 3` in the last two cells of memory, for a `STEP` and for a `RUN`. -/
def last (c : Command) : State :=
  { start with pc := 10485758, mem := [(10485758, 0x11), (10485759, 3)], pending := [c] }

/-- `RET` on an empty stack in the last cell of memory: a fault. -/
def lastFaults (c : Command) : State := { last c with pc := 10485759, mem := [(10485759, 0x22)] }

/-- Each command on a core whose instruction retires and on one whose instruction faults. -/
theorem witness_StepRunsTheDecodedInstruction :
    (∀ c ∈ [Command.step, Command.run],
      ((last c).mode = .running ∧ (last c).params.swapOperands = .inline ∧ IsCell (last c).pc ∧
        (last c).pc.toNat + 2 ≤ Config.memCells ∧
        decodeWith (last c).params.opcodeMap (cellsAt (last c).mem (last c).pc.toNat 2) = .ok (.pot 3, [])) ∧
      ((last c).pending = c :: [] ∧ WithinBudget (last c)) ∧
      ((lastFaults c).mode = .running ∧ (lastFaults c).pending = c :: [] ∧ WithinBudget (lastFaults c))) ∧
    (∃ t, execOne (last .run) = .next t ∧ ¬ Faulted t) ∧ (∃ t, execOne (lastFaults .run) = .next t ∧ Faulted t) ∧
    WithinBudget { last .step with
      x := #v[0, 0, 0, 0, 0, 0, 0, 1], params := { defaultParams with budgetSource := .r8 } } :=
  ⟨by decide, ⟨_, rfl, fun h => nomatch h.1⟩, ⟨_, rfl, rfl, _, rfl⟩, by decide⟩

theorem witness_HaltedStepAndRunChangeNothing :
    State.reset.mode = .halted ∧ ({ State.reset with pending := [.step] } : State).pending = .step :: [] ∧
    ({ State.reset with pending := [.run] } : State).pending = .run :: [] := by decide

/-- The budget is used up. -/
def spent (b : BudgetSource) : State :=
  { start with stepCount := 1, pending := [.step], params := { defaultParams with budgetSource := b } }

theorem witness_UsedUpBudgetSynthesizesHalt :
    ((spent .stepsField).mode = .running ∧ (spent .stepsField).pending = .step :: [] ∧
      (spent .stepsField).params.budgetSource = .stepsField ∧ (spent .stepsField).steps ≤ (spent .stepsField).stepCount) ∧
    ((spent .r8).mode = .running ∧ (spent .r8).pending = .step :: [] ∧ (spent .r8).params.budgetSource = .r8 ∧
      ((spent .r8).x[7]).toInt ≤ (spent .r8).stepCount) := by decide

/-- The hypotheses of `UnknownOpcodeHaltsInPlace` and of `FaultTaken`, met by `edge op 1`. -/
abbrev UnknownMeets (op : Word) (c : Command) : Prop :=
  (edge op 1 c).mode = .running ∧ IsCell (edge op 1 c).pc ∧
  ((readCell (edge op 1 c).mem (edge op 1 c).pc.toNat).toInt < 0 ∨
    0x22 < (readCell (edge op 1 c).mem (edge op 1 c).pc.toNat).toInt) ∧
  (edge op 1 c).pending = [c] ∧ WithinBudget (edge op 1 c) ∧
  ∀ o ∈ opcodes, (edge op 1 c).params.opcodeMap o ≠ readCell (edge op 1 c).mem (edge op 1 c).pc.toNat

theorem witness_UnknownOpcodeHaltsInPlace :
    (UnknownMeets 0x23 .run ∧ UnknownMeets 0x23 .step ∧ UnknownMeets 0xFFFFFFFF .run ∧ UnknownMeets 0xFFFFFFFF .step) ∧
    (∀ o, o ∈ opcodes) ∧ ∀ op c, (edge op 1 c).params.opcodeMap = opcodeValue :=
  ⟨by decide, mem_opcodes, fun _ _ => defaultParams_opcodeMap⟩

/-- The hypotheses of `FetchOutsideMemoryFaults` and of `FaultTaken`, met with `pc` at `a`. -/
abbrev OutsideMeets (a : Word) (c : Command) : Prop :=
  ({ start with pc := a, pending := [c] } : State).mode = .running ∧ ¬ IsCell a ∧
  ({ start with pc := a, pending := [c] } : State).pending = [c] ∧ WithinBudget start

theorem witness_FetchOutsideMemoryFaults :
    OutsideMeets 10485760 .run ∧ OutsideMeets 10485760 .step ∧ OutsideMeets 0xFFFFFFFF .run ∧
    OutsideMeets 0xFFFFFFFF .step := by decide

/-- A retired instruction and a fault; `RPC` at address 0, executed. -/
theorem witness_RetiredInstructionsAreTraced :
    start.mode = .running ∧ exec .rpc start = .next (retire .rpc start { start with ws := [0], pc := 1 }) ∧
    exec .ret start = .next (takeFault (.stackUnderflow 0 .ws) start) ∧
    ∃ t, execOne { start with mem := [(0, 0x21)] } = .next t ∧ ¬ Faulted t :=
  ⟨rfl, rfl, rfl, _, rfl, fun h => nomatch h.1⟩

/-- `RET` at address 0, with nothing on the stack. -/
def returning : State := { start with mem := [(0, 0x22)] }

theorem witness_FaultsArePrecise :
    returning.mode = .running ∧ execOne returning = .next (takeFault (.stackUnderflow 0 .ws) returning) ∧
    Faulted (takeFault (.stackUnderflow 0 .ws) returning) := ⟨rfl, rfl, rfl, _, rfl⟩

/-- The parameters of this hardware are legal. -/
theorem paramsOk_of_default {s : State} (h : s.params = defaultParams) : paramsOk s := by
  unfold paramsOk
  rw [h, defaultParams_opcodeMap]
  exact ⟨opcodeValue_injective, opcodeValue_le, by decide⟩

theorem witness_EveryStepKeepsTheInvariant : StateInv returning ∧ ∃ t, step returning = .next t :=
  ⟨⟨by decide, by decide, by decide, by decide, by decide, by decide, paramsOk_of_default rfl⟩, _, rfl⟩

/-- It serves `StreamsOnlyGrow` too. -/
theorem witness_ModeChangesOnlyAsStated :
    (∃ t, step { State.reset with pending := [.load [0]] } = .next t ∧ State.reset.mode = .halted ∧ t.mode = .running) ∧
    ∃ t, step returning = .next t ∧ returning.mode = .running ∧ t.mode = .halted := ⟨⟨_, rfl, rfl, rfl⟩, _, rfl, rfl, rfl⟩

theorem witness_RegistersKeepUnlessWritten :
    (∃ t, exec (.loadR1 5) start = .next t) ∧ ¬ WritesReg start 7 (.loadR1 5) := by
  refine ⟨⟨_, rfl⟩, ?_⟩
  unfold WritesReg
  decide

theorem witness_MemoryKeepsUnlessStored :
    Memory.wf (onStack [100, 42]).mem ∧ (∃ t, exec .str (onStack [100, 42]) = .next t) ∧
    ¬ StoresTo (onStack [100, 42]) 101 .str := by
  refine ⟨by decide, ⟨_, rfl⟩, ?_⟩
  rintro ⟨addr, rest, h, e⟩
  injection h with h1 h2
  subst h1
  exact absurd e (by decide)

/-- It serves `ReturnStackOnlyGrowsByRet` too. -/
theorem witness_DevicesKeepUnlessAddressed :
    (∃ t, exec (.dvw 16) (onStack [1]) = .next t) ∧ Store.canonical (onStack [1]).dev ∧
    ∀ p, Instr.dvw 16 = .dvw p → p.toNat ≠ 17 := by
  refine ⟨⟨_, rfl⟩, by decide, ?_⟩
  intro p h
  injection h with h
  subst h
  decide

/-- `RET` with a budget of one: one `STEP` and one turn of `RUN`. -/
theorem witness_StepsReachWhatRunReaches :
    returning.params.budgetSource = .stepsField ∧ returning.params.scanPoint = .perQuantum ∧
    returning.stepCount + 1 ≤ returning.steps ∧
    (∃ t, Host.Core.run Sys2Proof.core 1 { returning with pending := List.replicate 1 .step } = .next t) ∧
    ∃ u, Host.Core.run Sys2Proof.core 1 { returning with pending := [.run] } = .next u :=
  ⟨rfl, rfl, by decide, ⟨_, rfl⟩, _, rfl⟩

/-- The empty program: `LOAD` and one `STEP`. -/
theorem witness_StepsAfterLoadReachHalted :
    State.reset.params.budgetSource = .stepsField ∧ ([] : List Int).length ≤ Config.displayBase ∧
    (∀ v ∈ ([] : List Int), InRange v) ∧
    ∃ t, Host.Core.run Sys2Proof.core 2 { State.reset with pending := .load [] :: List.replicate 1 .step } = .next t :=
  ⟨rfl, by decide, by decide, _, rfl⟩

theorem witness_ResetSetsTheConstructionState :
    ({ start with pending := [.reset] } : State).pending = .reset :: [] := by decide

theorem witness_LoadPlacesTheProgram :
    ({ State.reset with pending := [.load [0x11, -2147483648, 2147483647]] } : State).pending =
      .load [0x11, -2147483648, 2147483647] :: [] ∧
    [0x11, -2147483648, (2147483647 : Int)].length ≤ Config.displayBase ∧
    (∀ v ∈ [0x11, -2147483648, (2147483647 : Int)], InRange v) := by decide

/-- A program of `DISPLAY_BASE + 1` cells, and a value that is no cell value. -/
theorem witness_FailedLoadChangesNothing :
    Config.displayBase < (List.replicate (Config.displayBase + 1) (0 : Int)).length ∧
    ([2147483648] : List Int).length ≤ Config.displayBase ∧ (∃ v ∈ [(2147483648 : Int)], ¬ InRange v) := by
  refine ⟨?_, by decide, 2147483648, by simp, by decide⟩
  rw [List.length_replicate]
  exact Nat.lt_succ_self _

theorem witness_UntriggeredScanChangesNothing :
    ∀ p, 16 ≤ p → p ≤ 31 → readCell (display [] [(15, 1), (16, 257), (32, 1)]).dev p ≠ 1 := by
  intro p h1 h2
  interval_cases p <;> decide

theorem witness_ScanDispatchesTriggeredPortsInOrder :
    Store.canonical (display [1, 0, 0, 1, 7] [(16, 1), (31, 1)]).dev := by decide

theorem witness_ScanChangesOnlyDisplayState :
    ({ display [1, 0, 0, 1, 7] [(16, 1)] with pending := [.scan] } : State).pending = .scan :: [] ∧
    Memory.wf (display [1, 0, 0, 1, 7] [(16, 1)]).mem ∧ Store.canonical (display [1, 0, 0, 1, 7] [(16, 1)]).dev ∧
    (display [1, 0, 0, 1, 7] [(16, 1)]).params.displayClearsPort = false ∧
    ({ display [] [(16, 1)] with params := { defaultParams with displayClearsPort := true } } : State).params.displayClearsPort
      = true := by decide

/-- Slot 0 goes on; slot 1, the sentinel, does not. -/
theorem witness_FrameAdvancesExactlyTheDrawnSlots :
    Memory.wf (display [1, 0, 0, 1, 7] []).mem ∧
    (∀ j, j ≤ 0 → SlotGoesOn defaultParams (display [1, 0, 0, 1, 7] []).mem j) ∧
    (∃ j, j ≤ 1 ∧ ¬ SlotGoesOn defaultParams (display [1, 0, 0, 1, 7] []).mem j) := by
  refine ⟨by decide, fun j hj => ?_, 1, le_refl _, fun h => h.1 (by decide)⟩
  obtain rfl : j = 0 := by omega
  exact ⟨by decide, .inl rfl⟩

/-- Two records that cover pixel 0 only: the second one is the last, and nothing covers pixel 1. -/
theorem witness_FramePaintsTheLastCoveringSlot :
    let m := (display [1, 0, 0, 1, 7, 2, 0, 0, 1, 9] []).mem
    Memory.wf m ∧ (defaultParams.codemap.map Prod.fst).Nodup ∧ Processed defaultParams m 1 ∧
    SlotCovers t2 defaultParams m 1 0 ∧ (∀ j, 1 < j → Processed defaultParams m j → ¬ SlotCovers t2 defaultParams m j 0) ∧
    ∀ n, Processed defaultParams m n → ¬ SlotCovers t2 defaultParams m n 1 := by
  intro m
  have ends : ∀ j, 1 < j → ¬ Processed defaultParams m j := fun j hj h => (h.2 2 hj).1 (by decide)
  refine ⟨by decide, by decide, ⟨by decide, fun j hj => ?_⟩, ⟨.b, by decide, 0, 0, by decide, by decide, by decide,
    by decide, by decide⟩, fun j hj h => absurd h (ends j hj), ?_⟩
  · interval_cases j <;> exact ⟨by decide, .inl rfl⟩
  · rintro n hn ⟨glyph, -, i, j, hi, hj, hf, hk, -⟩
    have : n ≤ 1 := not_lt.1 fun h => ends n h hn
    have e : (readCell m (slotBase n + 1)).toInt = 0 ∧ (readCell m (slotBase n + 2)).toInt = 0 ∧
        (readCell m (slotBase n + 3)).toInt = 1 := by interval_cases n <;> decide
    rw [e.2.2] at hi hj hf hk
    rw [e.1, e.2.1] at hk
    simp only [t2, Int.toNat_one, Nat.div_one, Bool.and_eq_true, beq_iff_eq] at hf
    omega

/-- One pixel of a glyph at the corner of the buffer, and the pixel after it, which the glyph does not cover. -/
theorem witness_RasterizeSetsExactlyTheCoveredPixels :
    Store.canonical ([] : Store 12) ∧ Covers t2 .compat .a 599 799 1 479999 ∧ Covers t2 .rowMajor .a 799 599 1 479999 ∧
    ¬ Covers t2 .compat .a 0 0 1 1 := by
  refine ⟨by decide, ⟨0, 0, by decide, by decide, rfl, by decide, by decide⟩,
    ⟨0, 0, by decide, by decide, rfl, by decide, by decide, by decide, by decide, by decide⟩, ?_⟩
  rintro ⟨i, j, hi, hj, hf, hk, -⟩
  simp only [t2, Int.toNat_one, Nat.div_one, Bool.and_eq_true, beq_iff_eq] at hf
  omega

/-- The second letter's pixel, and a text that covers none. -/
theorem witness_DrawStringDrawsItsLetters :
    ({ State.reset with pending := [.drawString ['A', 'B'] 0 0 1 0xFFF] } : State).pending =
      .drawString ['A', 'B'] 0 0 1 0xFFF :: [] ∧ Store.canonical State.reset.pix ∧
    (∃ (n : Nat) (ch : Char) (glyph : Glyph), ['A', 'B'][n]? = some ch ∧ letterGlyph ch = some glyph ∧
      Covers t2 State.reset.params.rasterMode glyph (0 + 6 * n) 0 1 4800) ∧
    ¬ ∃ (n : Nat) (ch : Char) (glyph : Glyph), [' '][n]? = some ch ∧ letterGlyph ch = some glyph ∧
      Covers t2 State.reset.params.rasterMode glyph (0 + 6 * n) 0 1 4800 := by
  refine ⟨rfl, by decide, ⟨1, 'B', .b, rfl, rfl, 0, 0, by decide, by decide, rfl, by decide, by decide⟩, ?_⟩
  rintro ⟨n, ch, glyph, h1, h2, -⟩
  rcases n with _ | n
  · obtain rfl := Option.some.inj h1
    have none : letterGlyph ' ' = .none := by decide
    rw [none] at h2
    cases h2
  · exact absurd h1 (by simp)

theorem witness_ExampleRecordIsDrawnAndAdvanced :
    StateInv { display [1, 10, 10, 2, 0xFFF] [(16, 1)] with pending := [.scan] } ∧
    (display [1, 10, 10, 2, 0xFFF] [(16, 1)]).params = defaultParams ∧
    (∀ p, 16 ≤ p → p ≤ 31 → (readCell (display [1, 10, 10, 2, 0xFFF] [(16, 1)]).dev p = 1 ↔ p = 16)) ∧
    (List.range 6).map (fun k => readCell (display [1, 10, 10, 2, 0xFFF] [(16, 1)]).mem (10005760 + k)) =
      [1, 10, 10, 2, 0xFFF, 0] := by
  refine ⟨⟨by decide, by decide, by decide, by decide, by decide, by decide, paramsOk_of_default rfl⟩, rfl,
    fun p h1 h2 => ?_, by decide⟩
  interval_cases p <;> decide

end Sys2Proof.Tests
end

section
/-! PROOFS. What an instruction can do, said once: it takes a fault, or it retires one of the eight effects of `Effect`. -/

namespace Sys2Proof.Machine

open Sys2Proof.Claims

/-! ## Writes to the working stack and the pc -/

/-- `t` is `s` with another working stack, still within its capacity, and another `pc`. -/
def OnStack (s t : State) : Prop :=
  ∃ l pc, t = (s.setWs l).setPc pc ∧ (s.ws.length ≤ Config.wsCap → l.length ≤ Config.wsCap)

theorem OnStack.refl (s : State) : OnStack s s := ⟨s.ws, s.pc, rfl, id⟩

theorem OnStack.trans {s t u : State} (h : OnStack s t) (h' : OnStack t u) : OnStack s u := by
  obtain ⟨l, pc, rfl, hl⟩ := h
  obtain ⟨l', pc', rfl, hl'⟩ := h'
  exact ⟨l', pc', rfl, hl' ∘ hl⟩

theorem OnStack.setPc {s t : State} (h : OnStack s t) (pc : Word) : OnStack s (t.setPc pc) :=
  h.trans ⟨t.ws, pc, rfl, id⟩

theorem OnStack.advance {s t : State} (h : OnStack s t) (n : Nat) : OnStack s (t.advance n) := h.setPc _

theorem OnStack.push {s t u : State} {v : Word} (h : OnStack s t) (e : Machine.push .ws t v = .ok u) : OnStack s u := by
  obtain ⟨hl, rfl⟩ := push_ok.1 e
  exact h.trans ⟨v :: t.ws, t.pc, rfl, fun _ => hl⟩

theorem OnStack.pop {s t u : State} {v : Word} (h : OnStack s t) (e : Machine.pop .ws t = .ok (v, u)) : OnStack s u := by
  obtain ⟨l, hl, rfl⟩ := pop_ok.1 e
  refine h.trans ⟨l, t.pc, rfl, fun hc => ?_⟩
  rw [← State.stack_ws, hl] at hc
  exact (Nat.le_succ _).trans hc

theorem OnStack.popTwo {s t u : State} {a b : Word} (h : OnStack s t) (e : Machine.popTwo t = .ok (a, b, u)) :
    OnStack s u := by
  obtain ⟨⟨_, t₁⟩, h₁, e⟩ := bind_eq_ok.1 e
  obtain ⟨⟨_, t₂⟩, h₂, e⟩ := bind_eq_ok.1 e
  cases e
  exact (h.pop h₁).pop h₂

theorem OnStack.setTop {s t u : State} {v : Word} (h : OnStack s t) (e : Machine.setTop .ws t v = .ok u) :
    OnStack s u := by
  obtain ⟨a, l, hl, rfl⟩ := setTop_ok.1 e
  refine h.trans ⟨v :: l, t.pc, rfl, fun hc => ?_⟩
  rw [← State.stack_ws, hl] at hc
  exact hc

/-! ## The shapes that handlers share -/

theorem binaryArith_onStack {f : Int → Int → Int} {s t : State} (h : binaryArith f s = .ok t) : OnStack s t := by
  obtain ⟨⟨a, b, u⟩, hp, h⟩ := bind_eq_ok.1 h
  obtain ⟨r, -, h⟩ := bind_eq_ok.1 h
  obtain ⟨v, hv, h⟩ := bind_eq_ok.1 h
  cases h
  exact (((OnStack.refl s).popTwo hp).push hv).advance 1

theorem comparison_onStack {c : Int → Int → Bool} {s t : State} (h : comparison c s = .ok t) : OnStack s t := by
  obtain ⟨⟨a, b, u⟩, hp, h⟩ := bind_eq_ok.1 h
  obtain ⟨v, hv, h⟩ := bind_eq_ok.1 h
  cases h
  exact (((OnStack.refl s).popTwo hp).push hv).advance 1

theorem changeTop_onStack {f : Int → Int} {s t : State} (h : changeTop f s = .ok t) : OnStack s t := by
  obtain ⟨v, -, h⟩ := bind_eq_ok.1 h
  obtain ⟨r, -, h⟩ := bind_eq_ok.1 h
  obtain ⟨u, hu, h⟩ := bind_eq_ok.1 h
  cases h
  exact ((OnStack.refl s).setTop hu).advance 1

theorem OnStack.jumpToTop {s t u : State} (h : OnStack s t) (e : Machine.jumpToTop t = .ok u) : OnStack s u := by
  obtain ⟨⟨v, w⟩, hp, e⟩ := bind_eq_ok.1 e
  cases e
  exact (h.pop hp).setPc v

/-- A register operand that is accepted names the slot it selects (00_scope R14). -/
theorem names_of_toNat {n : Word} {j : Fin 8} (h : n.toNat = j.val + 1) : Names n j := by
  have hj := j.isLt
  have hw := word_toInt n
  unfold Names
  omega

/-- Only ports 24 and 25 select a console stream (44_device_io R210). -/
theorem consoleStream_eq_some {n : Nat} {k : Stream} (h : consoleStream n = some k) : n = 24 ∨ n = 25 := by
  unfold consoleStream Config.portStderr Config.portStdout at h
  split at h
  · exact .inl ‹_›
  · split at h
    · exact .inr ‹_›
    · cases h

/-! ## The effects -/

/-- What the instruction `i` that retires in `s` has written: the working stack and `pc`, and at most one thing more. -/
inductive Effect (s : State) (i : Instr) : State → Prop where
  | halt (hi : i = .halt) : Effect s i (haltEffect false s)
  | stack {t : State} (ht : OnStack s t) : Effect s i t
  | reg {u : State} (hu : OnStack s u) (j : Fin 8) (v : Word) (n : Nat) (hj : WritesReg s j i) :
      Effect s i ((u.setReg j v).advance n)
  | swap {u : State} (hu : OnStack s u) (j k : Fin 8) (hj : WritesReg s j i) (hk : WritesReg s k i) :
      Effect s i (((u.setReg j (u.reg k)).setReg k (u.reg j)).advance 3)
  | mem {u : State} (hu : OnStack s u) (a : Nat) (v : Word) (n : Nat) (ha : StoresTo s a i) (hm : a < Config.memCells) :
      Effect s i ((u.setMem (writeCell u.mem a v)).advance n)
  | ret (v : Word) (l : List Word) (hi : i = .ret) (hl : s.ws = v :: l) (hr : s.rs.length < Config.rsCap) :
      Effect s i (((s.setWs l).setRs (v :: s.rs)).advance 1)
  | emit (p : Word) (k : Stream) (b : Byte) (hi : i = .dvo p) (hp : p = 24 ∨ p = 25) :
      Effect s i ((s.emit k b).advance 2)
  | port {u : State} (hu : OnStack s u) (p v : Word) (hi : i = .dvw p) (hp : p.toNat < Config.numPorts) :
      Effect s i ((portWrite u p.toNat v).advance 2)

/-- What the instruction `i` makes of `s`: it retires with an effect, or a fault is taken (40_engine R100, R105). -/
inductive ExecCase (i : Instr) (s u : State) : Prop where
  | retires (t : State) (ht : Effect s i t) (e : u = retire i s t)
  | faults (f : CoreFault) (e : u = takeFault f s)

/-- A commit of pseudocode that has an effect retires that effect, or takes a fault. -/
theorem commit_cases {i : Instr} {s u : State} {r : Except CoreFault State} (h : commit i s r = .next u)
    (hr : ∀ t, r = .ok t → Effect s i t) : ExecCase i s u := by
  rcases commit_next.1 h with ⟨t, ht, e⟩ | ⟨f, -, e⟩
  · exact .retires t (hr t ht) e
  · exact .faults f e

/-- A commit of pseudocode that writes the working stack and `pc` only. -/
theorem commit_onStack {i : Instr} {s u : State} {r : Except CoreFault State} (h : commit i s r = .next u)
    (hr : ∀ t, r = .ok t → OnStack s t) : ExecCase i s u :=
  commit_cases h fun t ht => .stack (hr t ht)

section
variable {s u : State}

theorem commit_loadImmediate {i : Instr} {j : Fin 8} {k : Word} (hj : WritesReg s j i)
    (h : commit i s (loadImmediate s j k) = .next u) : ExecCase i s u :=
  commit_cases h fun t h => by
    cases h
    exact .reg (.refl s) j k 2 hj

theorem execPush_cases {n : Word} (h : execPush n s = .next u) : ExecCase (.push n) s u :=
  commit_onStack h fun t h => by
    obtain ⟨i, -, h⟩ := bind_eq_ok.1 h
    obtain ⟨v, hv, h⟩ := bind_eq_ok.1 h
    cases h
    exact ((OnStack.refl s).push hv).advance 2

theorem execPop_cases {n : Word} (h : execPop n s = .next u) : ExecCase (.pop n) s u :=
  commit_cases h fun t h => by
    obtain ⟨j, hj, h⟩ := bind_eq_ok.1 h
    obtain ⟨⟨v, w⟩, hp, h⟩ := bind_eq_ok.1 h
    cases h
    exact .reg ((OnStack.refl s).pop hp) j v 2 (names_of_toNat (regIndex_ok.1 hj))

theorem execPot_cases {k : Word} (h : execPot k s = .next u) : ExecCase (.pot k) s u :=
  commit_onStack h fun t h => by
    obtain ⟨v, hv, h⟩ := bind_eq_ok.1 h
    cases h
    exact ((OnStack.refl s).push hv).advance 2

theorem execDup_cases (h : execDup s = .next u) : ExecCase .dup s u :=
  commit_onStack h fun t h => by
    obtain ⟨v, -, h⟩ := bind_eq_ok.1 h
    obtain ⟨w, hw, h⟩ := bind_eq_ok.1 h
    cases h
    exact ((OnStack.refl s).push hw).advance 1

theorem execOvr_cases (h : execOvr s = .next u) : ExecCase .ovr s u :=
  commit_onStack h fun t h => by
    obtain ⟨v, -, h⟩ := bind_eq_ok.1 h
    obtain ⟨w, hw, h⟩ := bind_eq_ok.1 h
    cases h
    exact ((OnStack.refl s).push hw).advance 1

theorem execRmv_cases (h : execRmv s = .next u) : ExecCase .rmv s u :=
  commit_onStack h fun t h => by
    obtain ⟨⟨v, w⟩, hp, h⟩ := bind_eq_ok.1 h
    cases h
    exact ((OnStack.refl s).pop hp).advance 1

theorem execStr_cases (h : execStr s = .next u) : ExecCase .str s u :=
  commit_cases h fun t h => by
    obtain ⟨⟨addr, v, w⟩, hp, h⟩ := bind_eq_ok.1 h
    obtain ⟨x, hx, h⟩ := bind_eq_ok.1 h
    cases h
    obtain ⟨ha, rfl⟩ := memWrite_ok.1 hx
    obtain ⟨l, hl, -⟩ := popTwo_ok.1 hp
    exact .mem ((OnStack.refl s).popTwo hp) _ v 1 ⟨addr, v :: l, hl, rfl⟩ (inMemory_iff.1 ha)

theorem execMov_cases {f1 f2 a1 a2 : Word} (h : execMov f1 f2 a1 a2 s = .next u) : ExecCase (.mov f1 f2 a1 a2) s u :=
  commit_cases h fun t h => by
    obtain ⟨m1, -, h⟩ := bind_eq_ok.1 h
    obtain ⟨m2, hm, h⟩ := bind_eq_ok.1 h
    obtain ⟨v, -, h⟩ := bind_eq_ok.1 h
    obtain ⟨w, hw, h⟩ := bind_eq_ok.1 h
    cases h
    rcases movMode_ok.1 hm with ⟨hf, rfl⟩ | ⟨hf, rfl⟩
    · obtain ⟨j, hj, h⟩ := bind_eq_ok.1 hw
      cases h
      exact .reg (.refl s) j v 5 ⟨hf, names_of_toNat (regIndex_ok.1 hj)⟩
    · obtain ⟨ha, rfl⟩ := memWrite_ok.1 hw
      exact .mem (.refl s) _ v 5 ⟨hf, rfl⟩ (inMemory_iff.1 ha)

theorem execSwap_cases {k1 k2 : Word} (h : execSwap k1 k2 s = .next u) : ExecCase (.swap k1 k2) s u :=
  commit_cases h fun t h => by
    obtain ⟨⟨n1, n2, w⟩, hn, h⟩ := bind_eq_ok.1 h
    obtain ⟨i, hi, h⟩ := bind_eq_ok.1 h
    obtain ⟨j, hj, h⟩ := bind_eq_ok.1 h
    cases h
    have ni := names_of_toNat (regIndex_ok.1 hi)
    have nj := names_of_toNat (regIndex_ok.1 hj)
    rcases swapNumbers_ok.1 hn with ⟨hs, rfl, rfl, rfl⟩ | ⟨hs, l, hl, rfl⟩
    · exact .swap (.refl _) i j (by simpa only [WritesReg, hs] using .inl ni) (by simpa only [WritesReg, hs] using .inr nj)
    · have hw : OnStack s (s.setWs l) := (OnStack.refl s).popTwo (popTwo_ok.2 ⟨l, hl, rfl⟩)
      refine .swap hw i j ?_ ?_ <;> simp only [WritesReg, hs]
      · exact ⟨n1, n2, l, hl, .inl ni⟩
      · exact ⟨n1, n2, l, hl, .inr nj⟩

theorem execSqrt_cases (h : execSqrt s = .next u) : ExecCase .sqrt s u :=
  commit_onStack h fun t h => by
    obtain ⟨⟨a, w⟩, hp, h⟩ := bind_eq_ok.1 h
    dsimp only at h
    split at h
    · cases h
    · obtain ⟨v, hv, h⟩ := bind_eq_ok.1 h
      cases h
      exact (((OnStack.refl s).pop hp).push hv).advance 1

theorem execAbs_cases (h : execAbs s = .next u) : ExecCase .abs s u :=
  commit_onStack h fun t h => by
    obtain ⟨⟨a, w⟩, hp, h⟩ := bind_eq_ok.1 h
    obtain ⟨r, -, h⟩ := bind_eq_ok.1 h
    obtain ⟨v, hv, h⟩ := bind_eq_ok.1 h
    cases h
    exact (((OnStack.refl s).pop hp).push hv).advance 1

theorem execPow_cases (h : execPow s = .next u) : ExecCase .pow s u :=
  commit_onStack h fun t h => by
    obtain ⟨⟨a, b, w⟩, hp, h⟩ := bind_eq_ok.1 h
    dsimp only at h
    split at h
    · cases h
    · obtain ⟨r, -, h⟩ := bind_eq_ok.1 h
      obtain ⟨v, hv, h⟩ := bind_eq_ok.1 h
      cases h
      exact (((OnStack.refl s).popTwo hp).push hv).advance 1

theorem execDvo_cases {p : Word} (h : execDvo p s = .next u) : ExecCase (.dvo p) s u :=
  commit_cases h fun t h => by
    obtain ⟨n, hn, h⟩ := bind_eq_ok.1 h
    obtain ⟨-, rfl⟩ := portIndex_ok.1 hn
    split at h
    · rename_i k hk
      cases h
      exact .emit p k _ rfl ((consoleStream_eq_some hk).imp BitVec.eq_of_toNat_eq BitVec.eq_of_toNat_eq)
    · cases h
      exact .stack ((OnStack.refl s).advance 2)

theorem execDvw_cases {p : Word} (h : execDvw p s = .next u) : ExecCase (.dvw p) s u :=
  commit_cases h fun t h => by
    obtain ⟨n, hn, h⟩ := bind_eq_ok.1 h
    obtain ⟨hp, rfl⟩ := portIndex_ok.1 hn
    obtain ⟨⟨v, w⟩, hw, h⟩ := bind_eq_ok.1 h
    cases h
    exact .port ((OnStack.refl s).pop hw) p _ rfl hp

theorem execHalt_cases (h : execHalt s = .next u) : ExecCase .halt s u :=
  commit_cases h fun t h => by
    cases h
    exact .halt rfl

theorem execGoto_cases (h : execGoto s = .next u) : ExecCase .goto s u :=
  commit_onStack h fun t h => by
    obtain ⟨v, hv, h⟩ := bind_eq_ok.1 h
    obtain ⟨target, -, h⟩ := bind_eq_ok.1 h
    obtain ⟨w, hw, h⟩ := bind_eq_ok.1 h
    exact (((OnStack.refl s).push hv).push hw).jumpToTop h

theorem execJnz_cases (h : execJnz s = .next u) : ExecCase .jnz s u :=
  commit_onStack h fun t h => by
    obtain ⟨⟨c, w⟩, hp, h⟩ := bind_eq_ok.1 h
    have hw : OnStack s w := (OnStack.refl s).pop hp
    dsimp only at h
    split at h
    · exact hw.jumpToTop h
    · cases h
      exact hw.advance 1

theorem execRpc_cases (h : execRpc s = .next u) : ExecCase .rpc s u :=
  commit_onStack h fun t h => by
    obtain ⟨v, hv, h⟩ := bind_eq_ok.1 h
    cases h
    exact ((OnStack.refl s).push hv).advance 1

theorem execRet_cases (h : execRet s = .next u) : ExecCase .ret s u :=
  commit_cases h fun t h => by
    obtain ⟨⟨v, w⟩, hw, h⟩ := bind_eq_ok.1 h
    obtain ⟨x, hx, h⟩ := bind_eq_ok.1 h
    cases h
    obtain ⟨l, hl, rfl⟩ := pop_ok.1 hw
    obtain ⟨hr, rfl⟩ := push_ok.1 hx
    exact .ret v l rfl hl hr

/-- Every instruction retires with one of the effects, or a fault is taken. -/
theorem exec_cases {i : Instr} (h : exec i s = .next u) : ExecCase i s u := by
  cases i with
  | halt => exact execHalt_cases h
  | loadR1 k => exact commit_loadImmediate rfl h
  | loadR2 k => exact commit_loadImmediate rfl h
  | loadR3 k => exact commit_loadImmediate rfl h
  | loadR4 k => exact commit_loadImmediate rfl h
  | loadR5 k => exact commit_loadImmediate rfl h
  | loadR6 k => exact commit_loadImmediate rfl h
  | loadR7 k => exact commit_loadImmediate rfl h
  | loadR8 k => exact commit_loadImmediate rfl h
  | add => exact commit_onStack h fun _ => binaryArith_onStack
  | sub => exact commit_onStack h fun _ => binaryArith_onStack
  | push n => exact execPush_cases h
  | pop n => exact execPop_cases h
  | equal => exact commit_onStack h fun _ => comparison_onStack
  | gth => exact commit_onStack h fun _ => comparison_onStack
  | lth => exact commit_onStack h fun _ => comparison_onStack
  | dup => exact execDup_cases h
  | pot k => exact execPot_cases h
  | ovr => exact execOvr_cases h
  | inc => exact commit_onStack h fun _ => changeTop_onStack
  | dcr => exact commit_onStack h fun _ => changeTop_onStack
  | mov f1 f2 a1 a2 => exact execMov_cases h
  | str => exact execStr_cases h
  | sqrt => exact execSqrt_cases h
  | abs => exact execAbs_cases h
  | pow => exact execPow_cases h
  | dvo p => exact execDvo_cases h
  | dvw p => exact execDvw_cases h
  | swap k1 k2 => exact execSwap_cases h
  | goto => exact execGoto_cases h
  | jmp => exact commit_onStack h fun _ => (OnStack.refl s).jumpToTop
  | rmv => exact execRmv_cases h
  | jnz => exact execJnz_cases h
  | rpc => exact execRpc_cases h
  | ret => exact execRet_cases h

/-- `Exec()` retires an instruction with one of the effects, or a fault is taken. -/
theorem execOne_cases (h : execOne s = .next u) :
    (∃ i t, Effect s i t ∧ u = retire i s t) ∨ ∃ f, u = takeFault f s := by
  unfold execOne at h
  split at h
  · rcases exec_cases h with ⟨t, ht, e⟩ | ⟨f, e⟩
    · exact .inl ⟨_, t, ht, e⟩
    · exact .inr ⟨f, e⟩
  · cases h
    exact .inr ⟨_, rfl⟩

end

end Sys2Proof.Machine
end

section
/-! PROOFS. Frames over every instruction, read off its effect: registers, the return stack, the devices, the mode. -/

namespace Sys2Proof.Machine

open Sys2Proof.Claims

theorem OnStack.reg {s u : State} (h : OnStack s u) (j : Fin 8) : u.reg j = s.reg j := by
  obtain ⟨l, pc, rfl, -⟩ := h
  rfl

theorem OnStack.rs {s u : State} (h : OnStack s u) : u.rs = s.rs := by
  obtain ⟨l, pc, rfl, -⟩ := h
  rfl

theorem OnStack.dev {s u : State} (h : OnStack s u) : u.dev = s.dev := by
  obtain ⟨l, pc, rfl, -⟩ := h
  rfl

theorem OnStack.console {s u : State} (h : OnStack s u) : u.console = s.console := by
  obtain ⟨l, pc, rfl, -⟩ := h
  rfl

/-- The states agree on what no instruction writes before it retires: pixels, counters, parameters, trace, and the host's
commands and replies. -/
def SameOutside (s t : State) : Prop :=
  t.pix = s.pix ∧ t.steps = s.steps ∧ t.stepCount = s.stepCount ∧ t.params = s.params ∧ t.pending = s.pending ∧
    t.reply = s.reply ∧ t.trace = s.trace

theorem OnStack.sameOutside {s u : State} (h : OnStack s u) : SameOutside s u := by
  obtain ⟨l, pc, rfl, -⟩ := h
  exact ⟨rfl, rfl, rfl, rfl, rfl, rfl, rfl⟩

theorem OnStack.mode_cause {s u : State} (h : OnStack s u) : u.mode = s.mode ∧ u.cause = s.cause := by
  obtain ⟨l, pc, rfl, -⟩ := h
  exact ⟨rfl, rfl⟩

section
variable {i : Instr} {s t : State}

theorem Effect.sameOutside (h : Effect s i t) : SameOutside s t := by
  cases h with
  | halt => exact ⟨rfl, rfl, rfl, rfl, rfl, rfl, rfl⟩
  | stack ht => exact ht.sameOutside
  | reg hu => exact hu.sameOutside
  | swap hu => exact hu.sameOutside
  | mem hu => exact hu.sameOutside
  | ret => exact ⟨rfl, rfl, rfl, rfl, rfl, rfl, rfl⟩
  | emit => exact ⟨rfl, rfl, rfl, rfl, rfl, rfl, rfl⟩
  | port hu => exact hu.sameOutside

/-- Only `HALT` changes the mode or the cause, before a fault is taken. -/
theorem Effect.mode_cause (h : Effect s i t) :
    (t.mode = s.mode ∧ t.cause = s.cause) ∨ (t.mode = .halted ∧ t.cause = .halt false) := by
  cases h with
  | halt => exact .inr ⟨rfl, rfl⟩
  | stack ht => exact .inl ht.mode_cause
  | reg hu => exact .inl hu.mode_cause
  | swap hu => exact .inl hu.mode_cause
  | mem hu => exact .inl hu.mode_cause
  | ret => exact .inl ⟨rfl, rfl⟩
  | emit => exact .inl ⟨rfl, rfl⟩
  | port hu => exact .inl hu.mode_cause

theorem Effect.reg_of_not_writesReg {j : Fin 8} (h : Effect s i t) (hj : ¬ WritesReg s j i) : t.reg j = s.reg j := by
  have ne : ∀ {k}, WritesReg s k i → k ≠ j := fun hk e => hj (e ▸ hk)
  cases h with
  | halt => rfl
  | stack ht => exact ht.reg j
  | @reg u hu k v n hk =>
    calc (u.setReg k v).reg j = u.reg j := by rw [State.reg_setReg, if_neg (ne hk)]
      _ = s.reg j := hu.reg j
  | @swap u hu k l hk hl =>
    calc ((u.setReg k (u.reg l)).setReg l (u.reg k)).reg j = u.reg j := by
          rw [State.reg_setReg, if_neg (ne hl), State.reg_setReg, if_neg (ne hk)]
      _ = s.reg j := hu.reg j
  | mem hu => exact hu.reg j
  | ret => rfl
  | emit => rfl
  | port hu => exact hu.reg j

theorem Effect.rs_cases (h : Effect s i t) :
    t.rs = s.rs ∨ (i = .ret ∧ ∃ v, s.ws = v :: t.ws ∧ t.rs = v :: s.rs) ∨ (i = .halt ∧ t.rs = []) := by
  cases h with
  | halt hi => exact .inr (.inr ⟨hi, rfl⟩)
  | stack ht => exact .inl ht.rs
  | reg hu => exact .inl hu.rs
  | swap hu => exact .inl hu.rs
  | mem hu => exact .inl hu.rs
  | ret v l hi hl => exact .inr (.inl ⟨hi, v, hl, rfl⟩)
  | emit => exact .inl rfl
  | port hu => exact .inl hu.rs

theorem Effect.console_cases (h : Effect s i t) :
    t.console = s.console ∨ ∃ p e, i = .dvo p ∧ (p = 24 ∨ p = 25) ∧ t.console = s.console ++ [e] := by
  cases h with
  | halt => exact .inl rfl
  | stack ht => exact .inl ht.console
  | reg hu => exact .inl hu.console
  | swap hu => exact .inl hu.console
  | mem hu => exact .inl hu.console
  | ret => exact .inl rfl
  | emit p k b hi hp => exact .inr ⟨p, (k, b), hi, hp, rfl⟩
  | port hu => exact .inl hu.console

theorem Effect.readCell_dev (h : Effect s i t) (hd : Store.canonical s.dev) {q : Nat}
    (hq : ∀ p, i = .dvw p → p.toNat ≠ q) : readCell t.dev q = readCell s.dev q := by
  cases h with
  | halt => rfl
  | stack ht => rw [ht.dev]
  | reg hu => exact congrArg (readCell · q) hu.dev
  | swap hu => exact congrArg (readCell · q) hu.dev
  | mem hu => exact congrArg (readCell · q) hu.dev
  | ret => rfl
  | emit => rfl
  | @port u hu p v hi =>
    calc readCell (writeCell u.dev p.toNat v) q = readCell (writeCell s.dev p.toNat v) q := by rw [hu.dev]
      _ = readCell s.dev q := by rw [readCell_writeCell hd, if_neg (hq p hi).symm]

end

/-- Settles O44: the effects that write a register are those of its writers; a fault writes none. -/
theorem registersKeepUnlessWritten : Obligations.RegistersKeepUnlessWritten := by
  intro i s t j h hj
  rcases exec_cases h with ⟨u, hu, rfl⟩ | ⟨f, rfl⟩
  · exact hu.reg_of_not_writesReg hj
  · rfl

/-- Settles O46, by the effects that write the return stack. -/
theorem returnStackOnlyGrowsByRet : Obligations.ReturnStackOnlyGrowsByRet := by
  intro i s t h
  rcases exec_cases h with ⟨u, hu, rfl⟩ | ⟨f, rfl⟩
  · exact hu.rs_cases
  · exact .inl rfl

/-- Settles O47, field by field over the effects. -/
theorem devicesKeepUnlessAddressed : Obligations.DevicesKeepUnlessAddressed := by
  intro i s t h
  rcases exec_cases h with ⟨u, hu, rfl⟩ | ⟨f, rfl⟩
  · obtain ⟨hpix, hsteps, hcount, hparams, hpending, hreply, -⟩ := hu.sameOutside
    exact ⟨hpix, hsteps, hcount, hparams, hpending, hreply, hu.console_cases, fun hd q hq => hu.readCell_dev hd hq⟩
  · exact ⟨rfl, rfl, rfl, rfl, rfl, rfl, .inl rfl, fun _ _ _ => rfl⟩

end Sys2Proof.Machine
end

section
/-! PROOFS. The invariant: it holds after a reset, and every effect, every frame of the display and every host command keeps
it. -/

namespace Sys2Proof.Machine

theorem StateInv.params_ok {s : State} (h : StateInv s) : paramsOk s := by
  obtain ⟨-, -, -, -, -, -, hparams⟩ := h
  exact hparams

/-! ## Reset and load -/

theorem Memory.wf_nil : Memory.wf [] := ⟨⟨.nil, nofun⟩, nofun⟩

/-- A reset from parameters that are legal; the parameters are all that it keeps of the invariant's fields. -/
theorem StateInv.resetCore {s : State} (h : paramsOk s) : StateInv (Machine.resetCore s) :=
  ⟨Memory.wf_nil, ⟨Nat.zero_le _, Nat.zero_le _⟩, ⟨⟨.nil, nofun⟩, nofun⟩, ⟨⟨.nil, nofun⟩, nofun⟩, nofun,
    ⟨Nat.zero_le _, fun _ => Nat.le_refl 0⟩, h⟩

theorem paramsOk_reset : paramsOk State.reset := by
  have e : State.reset.params.opcodeMap = opcodeValue := defaultParams_opcodeMap
  unfold paramsOk
  rw [e]
  exact ⟨opcodeValue_injective, opcodeValue_le, by decide⟩

theorem StateInv.loadProgram {s : State} {p : List Int} (h : paramsOk s) (hp : p.length ≤ Config.displayBase) :
    StateInv (Machine.loadProgram p s) := by
  obtain ⟨-, hstacks, hports, hpixels, -, -, hparams⟩ := StateInv.resetCore h
  have hm : 0 + p.length ≤ Config.memCells := by simp only [Config.displayBase] at hp; omega
  exact ⟨Memory.wf_imageFrom hm, hstacks, hports, hpixels, fun _ => rfl, ⟨hp, fun _ => Nat.zero_le _⟩, hparams⟩

/-! ## Instructions -/

theorem StateInv.takeFault {s : State} (h : StateInv s) (f : CoreFault) : StateInv (Machine.takeFault f s) := by
  obtain ⟨hmem, hstacks, hports, hpixels, -, hcounters, hparams⟩ := h
  exact ⟨hmem, hstacks, hports, hpixels, nofun, hcounters, hparams⟩

theorem StateInv.haltEffect {s : State} (h : StateInv s) (b : Bool) : StateInv (Machine.haltEffect b s) := by
  obtain ⟨hmem, -, hports, hpixels, -, hcounters, hparams⟩ := h
  exact ⟨Memory.wf_zeroBelow hmem _, ⟨Nat.zero_le _, Nat.zero_le _⟩, hports, hpixels, nofun, hcounters, hparams⟩

theorem StateInv.onStack {s u : State} (h : StateInv s) (hu : OnStack s u) : StateInv u := by
  obtain ⟨l, pc, rfl, hl⟩ := hu
  obtain ⟨hmem, ⟨hws, hrs⟩, hrest⟩ := h
  exact ⟨hmem, ⟨hl hws, hrs⟩, hrest⟩

theorem StateInv.writeMem {s : State} (h : StateInv s) {a : Nat} (ha : a < Config.memCells) (v : Word) :
    StateInv (s.setMem (writeCell s.mem a v)) := by
  obtain ⟨hmem, hrest⟩ := h
  exact ⟨Memory.wf_writeCell hmem ha v, hrest⟩

theorem StateInv.portWrite {s : State} (h : StateInv s) {p : Nat} (hp : p < Config.numPorts) (v : Word) :
    StateInv (Machine.portWrite s p v) := by
  obtain ⟨hmem, hstacks, ⟨hcanonical, hwithin⟩, hrest⟩ := h
  exact ⟨hmem, hstacks, ⟨writeCell_canonical hcanonical p v, writeCell_within hwithin hp⟩, hrest⟩

theorem StateInv.effect {s t : State} {i : Instr} (h : StateInv s) (ht : Effect s i t) : StateInv t := by
  cases ht with
  | halt => exact h.haltEffect false
  | stack hu => exact h.onStack hu
  | reg hu =>
    have hinv := h.onStack hu
    exact hinv
  | swap hu =>
    have hinv := h.onStack hu
    exact hinv
  | mem hu a v n _ ha => exact (h.onStack hu).writeMem ha v
  | ret v l _ hl hr =>
    obtain ⟨hmem, ⟨hws, -⟩, hrest⟩ := h
    rw [hl] at hws
    exact ⟨hmem, ⟨(Nat.le_succ _).trans hws, hr⟩, hrest⟩
  | emit => exact h
  | port hu p v _ hp => exact (h.onStack hu).portWrite hp v

theorem StateInv.execOne {s u : State} (h : StateInv s) (hu : Machine.execOne s = .next u) : StateInv u := by
  rcases execOne_cases hu with ⟨i, t, ht, rfl⟩ | ⟨f, rfl⟩
  · have hinv := h.effect ht
    exact hinv
  · exact h.takeFault f

/-- `Exec()` reaches neither the counters nor the parameters. -/
theorem execOne_counters {s u : State} (hu : execOne s = .next u) :
    u.steps = s.steps ∧ u.stepCount = s.stepCount ∧ u.params = s.params := by
  rcases execOne_cases hu with ⟨i, t, ht, rfl⟩ | ⟨f, rfl⟩
  · obtain ⟨-, hsteps, hcount, hparams, -⟩ := ht.sameOutside
    exact ⟨hsteps, hcount, hparams⟩
  · exact ⟨rfl, rfl, rfl⟩

/-- Counting the instruction keeps the invariant when the budget was not used up before it (10_state R40). -/
theorem StateInv.countRetired {s u : State} (h : StateInv s) (hb : (s.stepCount : Int) < budget s)
    (hu : Machine.execOne s = .next u) : StateInv (Machine.countRetired u) := by
  have hinv := h.execOne hu
  obtain ⟨hsteps, hcount, hparams⟩ := execOne_counters hu
  unfold Machine.countRetired
  split
  · exact hinv
  · obtain ⟨hmem, hstacks, hports, hpixels, hmode, ⟨hbase, -⟩, hok⟩ := hinv
    refine ⟨hmem, hstacks, hports, hpixels, hmode, ⟨hbase, fun hsrc => ?_⟩, hok⟩
    have hsrc : s.params.budgetSource = .stepsField := hparams ▸ hsrc
    simp only [budget, hsrc] at hb
    simp only [State.setStepCount_stepCount, State.setStepCount_steps, hsteps, hcount]
    omega

/-! ## The display -/

theorem StateInv.displayFrame {s : State} (h : StateInv s) (font : Font) {p : Nat} (hp : p < Config.numPorts) :
    StateInv (Machine.displayFrame font p s) := by
  obtain ⟨hmem, hstacks, hports, -, hrest⟩ := h
  have hframe : StateInv ((s.setMem (scanSlots font s.params displaySlots Config.displayBase s.mem []).1).setPix
      (scanSlots font s.params displaySlots Config.displayBase s.mem []).2) :=
    ⟨Memory.wf_scanSlots font _ _ _ _ hmem (by decide), hstacks, hports,
      scanSlots_pixels font _ _ _ _ ⟨⟨.nil, nofun⟩, nofun⟩, hrest⟩
  unfold Machine.displayFrame
  dsimp only
  split
  · exact hframe.portWrite hp 0
  · exact hframe

theorem StateInv.scan {s : State} (h : StateInv s) (font : Font) : StateInv (Machine.scan font s) := by
  unfold Machine.scan
  refine List.foldlRecOn (motive := StateInv) _ _ h fun t ht p hp => ?_
  unfold scanPort
  split
  · exact ht.displayFrame font (List.mem_range.1 hp)
  · exact ht

theorem StateInv.scanAfter {s : State} (h : StateInv s) : StateInv (Machine.scanAfter s) := by
  rcases scanAfter_cases s with e | ⟨e, -⟩ <;> rw [e]
  · exact h
  · exact h.scan _

theorem StateInv.drawString {s : State} (h : StateInv s) (font : Font) (str : List Char) (x y scale color : Int) :
    StateInv (Machine.drawString font str x y scale color s) := by
  obtain ⟨hmem, hstacks, hports, hpixels, hrest⟩ := h
  exact ⟨hmem, hstacks, hports, drawChars_pixels _ _ _ _ _ _ _ hpixels, hrest⟩

/-- Finishing a command touches no field of the invariant. -/
theorem StateInv.finish {s : State} (h : StateInv s) (cs : List Command) (r : Reply) : StateInv (Machine.finish cs r s) := h

/-- Settles O40: each case of a step keeps the invariant. -/
theorem everyStepKeepsTheInvariant : Obligations.EveryStepKeepsTheInvariant := by
  intro s t h hst
  have hparams := h.params_ok
  cases step_cases hst with
  | idle _ e => exact e ▸ h
  | reset cs _ e => subst e; exact StateInv.resetCore hparams
  | loadFails p cs r _ _ e => subst e; exact h
  | load p cs _ hp e => subst e; exact StateInv.loadProgram hparams (loadProblem_none.1 hp).1
  | halted c cs _ _ _ e => subst e; exact h
  | budgetUsedUp cs _ _ _ e => subst e; exact h.haltEffect true
  | step cs u _ _ hb hu e => subst e; exact h.countRetired hb hu
  | run cs u _ _ hu e => subst e; exact (h.execOne hu).scanAfter
  | scan cs _ e => subst e; exact (h.scan _).finish cs .none
  | draw str x y scale color cs _ e => subst e; exact h.drawString _ str x y scale color

/-- Settles O41: construction is a reset with the default parameters. -/
theorem resetMeetsTheInvariant : Obligations.ResetMeetsTheInvariant :=
  StateInv.resetCore paramsOk_reset

end Sys2Proof.Machine
end

section
/-! PROOFS. What every step does to the streams and to the mode, and the three commands that need no instruction: `RESET`,
`STEP` and `RUN` on a Halted core, and `STEP` with a used-up budget. -/

namespace Sys2Proof.Machine

open Sys2Proof.Claims

/-! ## The streams -/

/-- The streams of `t` extend those of `s`, and the parameters are the same (10_state R46, R49). -/
def Extends (s t : State) : Prop :=
  (∃ r, t.trace = s.trace ++ r) ∧ (∃ b, t.console = s.console ++ b) ∧ t.params = s.params

theorem Extends.of_eq {s t : State} (ht : t.trace = s.trace) (hc : t.console = s.console) (hp : t.params = s.params) :
    Extends s t :=
  ⟨⟨[], by rw [ht, List.append_nil]⟩, ⟨[], by rw [hc, List.append_nil]⟩, hp⟩

theorem Extends.trans {s t u : State} (h : Extends s t) (h' : Extends t u) : Extends s u := by
  obtain ⟨⟨r, hr⟩, ⟨b, hb⟩, hp⟩ := h
  obtain ⟨⟨r', hr'⟩, ⟨b', hb'⟩, hp'⟩ := h'
  exact ⟨⟨r ++ r', by rw [hr', hr, List.append_assoc]⟩, ⟨b ++ b', by rw [hb', hb, List.append_assoc]⟩, hp'.trans hp⟩

theorem finish_extends (cs : List Command) (r : Reply) (s : State) : Extends s (finish cs r s) := .of_eq rfl rfl rfl

theorem scan_extends (font : Font) (s : State) : Extends s (scan font s) := by
  rw [scan_shape]
  exact .of_eq rfl rfl rfl

theorem execOne_extends {s u : State} (hu : execOne s = .next u) : Extends s u := by
  rcases execOne_cases hu with ⟨i, t, ht, rfl⟩ | ⟨f, rfl⟩
  · obtain ⟨-, -, -, hparams, -, -, htrace⟩ := ht.sameOutside
    refine ⟨⟨[traceRecord i.opcode s.pc false t], by rw [retire_trace, htrace]⟩, ?_, hparams⟩
    rcases ht.console_cases with hc | ⟨p, e, -, -, hc⟩
    · exact ⟨[], by rw [retire_console, hc, List.append_nil]⟩
    · exact ⟨[e], hc⟩
  · exact .of_eq rfl rfl rfl

theorem countRetired_extends (u : State) : Extends u (countRetired u) := by
  unfold countRetired
  split <;> exact .of_eq rfl rfl rfl

theorem scanAfter_extends (u : State) : Extends u (scanAfter u) := by
  rcases scanAfter_cases u with e | ⟨e, -⟩ <;> rw [e]
  · exact .of_eq rfl rfl rfl
  · exact scan_extends _ u

/-- Settles O42, over the cases of a step. -/
theorem streamsOnlyGrow : Obligations.StreamsOnlyGrow := by
  intro s t hst
  cases step_cases hst with
  | idle _ e => subst e; exact Extends.of_eq rfl rfl rfl
  | reset cs _ e => subst e; exact Extends.of_eq rfl rfl rfl
  | loadFails p cs r _ _ e => subst e; exact Extends.of_eq rfl rfl rfl
  | load p cs _ _ e => subst e; exact Extends.of_eq rfl rfl rfl
  | halted c cs _ _ _ e => subst e; exact Extends.of_eq rfl rfl rfl
  | budgetUsedUp cs _ _ _ e => subst e; exact ⟨⟨_, rfl⟩, ⟨[], (List.append_nil _).symm⟩, rfl⟩
  | step cs u _ _ _ hu e => subst e; exact (execOne_extends hu).trans (countRetired_extends u)
  | run cs u _ _ hu e => subst e; exact (execOne_extends hu).trans (scanAfter_extends u)
  | scan cs _ e => subst e; exact (scan_extends _ s).trans (finish_extends cs .none _)
  | draw str x y scale color cs _ e => subst e; exact Extends.of_eq rfl rfl rfl

/-! ## The mode -/

/-- An instruction that halts a Running core leaves the cause of a `HALT` or of a fault (10_state R38, R39). -/
theorem execOne_halted {s u : State} (hu : execOne s = .next u) (hs : s.mode = .running) (hh : u.mode = .halted) :
    (∃ b, u.cause = .halt b) ∨ ∃ f, u.cause = .fault f := by
  rcases execOne_cases hu with ⟨i, t, ht, rfl⟩ | ⟨f, rfl⟩
  · rcases ht.mode_cause with ⟨hm, -⟩ | ⟨-, hc⟩
    · rw [retire_mode, hm, hs] at hh
      cases hh
    · exact .inl ⟨false, hc⟩
  · exact .inr ⟨f, rfl⟩

theorem countRetired_mode_cause (u : State) : (countRetired u).mode = u.mode ∧ (countRetired u).cause = u.cause := by
  unfold countRetired
  split <;> exact ⟨rfl, rfl⟩

theorem finish_mode (cs : List Command) (r : Reply) (s : State) : (finish cs r s).mode = s.mode := rfl

theorem scan_mode_cause (font : Font) (s : State) : (scan font s).mode = s.mode ∧ (scan font s).cause = s.cause := by
  rw [scan_shape]
  exact ⟨rfl, rfl⟩

theorem scanAfter_mode_cause (u : State) : (scanAfter u).mode = u.mode ∧ (scanAfter u).cause = u.cause := by
  rcases scanAfter_cases u with e | ⟨e, -⟩ <;> rw [e]
  · exact ⟨rfl, rfl⟩
  · exact scan_mode_cause _ u

theorem inRange_of_fitsCell {v : Int} (h : fitsCell v = true) : InRange v := of_decide_eq_true h

/-- From Halted to Running: only a `LOAD` that succeeds. -/
theorem step_to_running {s t : State} (hst : step s = .next t) (hs : s.mode = .halted) (ht : t.mode = .running) :
    ∃ p cs, s.pending = .load p :: cs ∧ p.length ≤ Config.displayBase ∧ ∀ v ∈ p, InRange v := by
  have stays : t.mode ≠ s.mode := by rw [hs, ht]; decide
  cases step_cases hst with
  | idle _ e => subst e; exact absurd rfl stays
  | reset cs _ e => subst e; cases ht
  | loadFails p cs r _ _ e => subst e; exact absurd rfl stays
  | load p cs h hp e =>
    obtain ⟨hlen, hall⟩ := loadProblem_none.1 hp
    exact ⟨p, cs, h, hlen, fun v hv => inRange_of_fitsCell (List.all_eq_true.1 hall v hv)⟩
  | halted c cs _ _ _ e => subst e; exact absurd rfl stays
  | budgetUsedUp cs _ hm => rw [hs] at hm; cases hm
  | step cs u _ hm => rw [hs] at hm; cases hm
  | run cs u _ hm => rw [hs] at hm; cases hm
  | scan cs _ e => subst e; exact absurd ((finish_mode cs .none _).trans (scan_mode_cause _ s).1) stays
  | draw str x y scale color cs _ e => subst e; exact absurd rfl stays

/-- From Running to Halted: only by `HALT`, a fault, or `RESET`. -/
theorem step_to_halted {s t : State} (hst : step s = .next t) (hs : s.mode = .running) (ht : t.mode = .halted) :
    (∃ b, t.cause = .halt b) ∨ (∃ f, t.cause = .fault f) ∨ ∃ cs, s.pending = .reset :: cs := by
  have stays : t.mode ≠ s.mode := by rw [hs, ht]; decide
  have executed : ∀ {u}, execOne s = .next u → t.mode = u.mode ∧ t.cause = u.cause →
      (∃ b, t.cause = .halt b) ∨ (∃ f, t.cause = .fault f) ∨ ∃ cs, s.pending = .reset :: cs := by
    rintro u hu ⟨hm, hc⟩
    rw [hc]
    exact (execOne_halted hu hs (hm ▸ ht)).imp_right .inl
  cases step_cases hst with
  | idle _ e => subst e; exact absurd rfl stays
  | reset cs h => exact .inr (.inr ⟨cs, h⟩)
  | loadFails p cs r _ _ e => subst e; exact absurd rfl stays
  | load p cs _ _ e => subst e; cases ht
  | halted c cs _ _ hm => rw [hs] at hm; cases hm
  | budgetUsedUp cs _ _ _ e => subst e; exact .inl ⟨true, rfl⟩
  | step cs u _ _ _ hu e => subst e; exact executed hu (countRetired_mode_cause u)
  | run cs u _ _ hu e => subst e; exact executed hu (scanAfter_mode_cause u)
  | scan cs _ e => subst e; exact absurd ((finish_mode cs .none _).trans (scan_mode_cause _ s).1) stays
  | draw str x y scale color cs _ e => subst e; exact absurd rfl stays

/-- Settles O43: the two directions. -/
theorem modeChangesOnlyAsStated : Obligations.ModeChangesOnlyAsStated :=
  fun _ _ hst => ⟨step_to_running hst, step_to_halted hst⟩

/-! ## Commands that run no instruction -/

theorem step_of_pending {s : State} {c : Command} {cs : List Command} (h : s.pending = c :: cs) :
    step s = performCommand c cs s := by
  unfold step performNext
  rw [h]

/-- `STEP()` on a Running core whose budget is used up (40_engine R109). -/
theorem stepQuantum_of_budget_le {s : State} (hm : s.mode = .running) (hb : budget s ≤ s.stepCount) :
    stepQuantum s = .next (synthesizedHalt s) := by
  unfold stepQuantum
  rw [if_neg (by rw [hm]; decide), if_pos hb]

/-- Settles O33: both commands end at once on a Halted core. -/
theorem haltedStepAndRunChangeNothing : Obligations.HaltedStepAndRunChangeNothing := by
  rintro s c cs hm (rfl | rfl) hp <;> rw [step_of_pending hp]
  · have hq : stepQuantum s = .next s := if_pos hm
    simp only [performCommand, hq]
    rfl
  · exact if_pos hm

/-- Settles O34: under both budget sources the step is the synthesized `HALT`. -/
theorem usedUpBudgetSynthesizesHalt : Obligations.UsedUpBudgetSynthesizesHalt := by
  intro s cs hm hp hb
  have hbudget : budget s ≤ s.stepCount := by
    rcases hb with ⟨hsrc, hle⟩ | ⟨hsrc, hle⟩ <;> simp only [budget, hsrc]
    · exact Int.ofNat_le.2 hle
    · exact hle
  refine ⟨finishStatus cs (synthesizedHalt s), ?_, rfl, rfl, rfl, readCell_zeroBelow _ _, rfl, rfl, rfl, rfl, rfl, rfl, rfl,
    rfl, rfl, rfl, rfl, rfl⟩
  rw [step_of_pending hp]
  simp only [performCommand, stepQuantum_of_budget_le hm hbudget]
  rfl

/-- Every register is 0 after a reset (10_state R47). -/
theorem resetCore_x (s : State) (j : Fin 8) : (resetCore s).x[j] = 0 := Vector.getElem_replicate _

/-- Settles O50: `RESET` and construction give every element the same value. -/
theorem resetSetsTheConstructionState : Obligations.ResetSetsTheConstructionState := by
  refine ⟨fun s cs hp => ⟨finish cs .none (resetCore s), step_of_pending hp, fun _ => rfl, resetCore_x s, rfl, rfl, rfl, rfl,
    rfl, fun _ => rfl, fun _ => rfl, rfl, rfl, rfl, rfl, rfl, rfl⟩, ?_⟩
  exact ⟨fun _ => rfl, resetCore_x State.reset, rfl, rfl, rfl, rfl, rfl, fun _ => rfl, fun _ => rfl, rfl, rfl⟩

end Sys2Proof.Machine
end

section
/-! PROOFS. Memory: the frame of every instruction, and the fault of a fetch from outside memory. -/

namespace Sys2Proof.Machine

open Sys2Proof.Claims

/-! ## Frame -/

theorem OnStack.mem {s u : State} (h : OnStack s u) : u.mem = s.mem := by
  obtain ⟨l, pc, rfl, -⟩ := h
  rfl

/-- An effect changes no cell that its instruction does not store to; the canonical form is what makes a write to one cell
leave the others (log entry 1). -/
theorem Effect.readCell_mem {i : Instr} {s t : State} {a : Nat} (h : Effect s i t) (hm : Store.canonical s.mem)
    (ha : ¬ StoresTo s a i) : readCell t.mem a = readCell s.mem a := by
  cases h with
  | halt hi =>
    subst hi
    have hbase : ¬ a < Config.displayBase := ha
    rw [haltEffect_mem, readCell_zeroBelow, if_neg hbase]
  | stack ht => rw [ht.mem]
  | reg hu => exact congrArg (readCell · a) hu.mem
  | swap hu => exact congrArg (readCell · a) hu.mem
  | @mem u hu b v n hb =>
    have hne : a ≠ b := fun e => ha (e ▸ hb)
    calc readCell (writeCell u.mem b v) a = readCell (writeCell s.mem b v) a := by rw [hu.mem]
      _ = readCell s.mem a := by rw [readCell_writeCell hm, if_neg hne]
  | ret => rfl
  | emit => rfl
  | port hu => exact congrArg (readCell · a) hu.mem

/-- Settles O45: the effects that write memory are those of the instructions that store; a fault discards every write. -/
theorem memoryKeepsUnlessStored : Obligations.MemoryKeepsUnlessStored := by
  rintro i s t a ⟨hm, -⟩ h ha
  rcases exec_cases h with ⟨u, hu, rfl⟩ | ⟨f, rfl⟩
  · exact hu.readCell_mem hm ha
  · rfl

/-! ## Faults of the fetch -/

/-- `STEP()` on a Running core whose budget is not used up is `Exec()`, counted when it retires (40_engine R108). -/
theorem stepQuantum_of_withinBudget {s : State} (hm : s.mode = .running) (hb : WithinBudget s) :
    stepQuantum s = onNext (execOne s) countRetired := by
  have hlt : ¬ budget s ≤ s.stepCount := by
    rcases hb with ⟨hsrc, hlt⟩ | ⟨hsrc, hlt⟩ <;> simp only [budget, hsrc, Int.not_le]
    · exact Int.ofNat_lt.2 hlt
    · exact hlt
  unfold stepQuantum
  rw [if_neg (by rw [hm]; decide), if_neg hlt]

/-- A turn of `RUN` on a Running core (40_engine R110). -/
theorem performCommand_run_of_running {s : State} (hm : s.mode = .running) (cs : List Command) :
    performCommand .run cs s = runIteration s :=
  if_neg (by rw [hm]; decide)

/-- After a fault neither `STEP` counts nor `RUN` scans. -/
theorem countRetired_takeFault (f : CoreFault) (s : State) : countRetired (takeFault f s) = takeFault f s := rfl

theorem scanAfter_takeFault (f : CoreFault) (s : State) : scanAfter (takeFault f s) = takeFault f s :=
  if_neg fun ⟨_, h⟩ => Bool.noConfusion h

/-- When `Exec()` of a Running core takes a fault, so does the next step, in a `RUN` and in a `STEP` (60_exceptions R276). -/
theorem faultTaken_of_execOne {s : State} {f : CoreFault} (hm : s.mode = .running)
    (he : execOne s = .next (takeFault f s)) : FaultTaken s f := by
  refine ⟨fun cs hp => ?_, fun cs hp hb => ?_⟩ <;> rw [step_of_pending hp]
  · rw [performCommand_run_of_running hm, runIteration, he]
    exact congrArg Host.Outcome.next (scanAfter_takeFault f s)
  · rw [performCommand, stepQuantum_of_withinBudget hm hb, he]
    rfl

/-- A fault of the fetch is taken like any other (40_engine R100). -/
theorem execOne_of_fetch_error {s : State} {f : CoreFault} (h : fetch s = .error f) :
    execOne s = .next (takeFault f s) := by
  unfold execOne
  rw [h]

/-- The opcode cell is read first (40_engine R101). -/
theorem fetch_of_not_isCell {s : State} (h : ¬ IsCell s.pc) : fetch s = .error (.memoryFault s.pc s.pc) := by
  have hread : memRead s s.pc = .error (.memoryFault s.pc s.pc) :=
    memRead_error.2 ⟨decide_eq_false h, rfl⟩
  unfold fetch
  rw [hread, error_bind]

/-- Settles O36: the read of the opcode cell raises the fault, and the step takes it. -/
theorem fetchOutsideMemoryFaults : Obligations.FetchOutsideMemoryFaults :=
  fun _ hm hpc => faultTaken_of_execOne hm (execOne_of_fetch_error (fetch_of_not_isCell hpc))

end Sys2Proof.Machine
end

section
/-! PROOFS. Encoding: decoding and encoding are inverse under every injective opcode map, the values that the default map
leaves free, and the fault of fetching a value without a row (30_encoding R80 to R91, 40_engine R103). -/

namespace Sys2Proof

open Sys2Proof.Machine

/-! ## An instruction is its row and its operand cells -/

/-- An instruction has the operand cells of its row's format (R81, R82). -/
theorem Instr.operands_length (i : Instr) : i.operands.length = operandCells i.opcode := by cases i <;> rfl

/-- No operand cell is lost between taking an instruction apart and assembling it (R82). -/
theorem assemble_opcode_operands (i : Instr) : assemble i.opcode i.operands = i := by cases i <;> rfl

/-- The operand cells are taken in address order (R82). -/
theorem operands_assemble_eq_map (o : Opcode) (ks : List Word) :
    (assemble o ks).operands = (List.range (operandCells o)).map fun n => ks.getD n 0 := by cases o <;> rfl

/-- With as many cells as the row's format has, assembling drops none (R82). -/
theorem operands_assemble {o : Opcode} {ks : List Word} (h : ks.length = operandCells o) :
    (assemble o ks).operands = ks := by
  rw [operands_assemble_eq_map, ← h]
  refine List.ext_getElem (by simp) fun n _ hn => ?_
  simp [List.getElem?_eq_getElem hn]

/-! ## Decoding -/

/-- What it takes to decode to `i`: a first cell whose value finds the row of `i`, and after it the operand cells of `i`
(R82, R84). -/
theorem decodeWith_eq_ok_iff {opc : OpcodeMap} {cells : List Word} {i : Instr} {rest : List Word} :
    decodeWith opc cells = .ok (i, rest) ↔
      ∃ op, findOpcode opc op = some i.opcode ∧ cells = op :: (i.operands ++ rest) := by
  constructor
  · intro h
    rcases cells with _ | ⟨op, tail⟩
    · cases h
    cases ho : findOpcode opc op with
    | none => simp [decodeWith, ho] at h
    | some o =>
      by_cases hlen : tail.length < operandCells o
      · simp [decodeWith, ho, hlen] at h
      · simp only [decodeWith, ho, if_neg hlen, Except.ok.injEq, Prod.mk.injEq] at h
        obtain ⟨rfl, rfl⟩ := h
        refine ⟨op, by rw [ho, assemble_opcode], ?_⟩
        rw [operands_assemble (List.length_take_of_le (not_lt.1 hlen)), List.take_append_drop]
  · rintro ⟨op, ho, rfl⟩
    simp [decodeWith, ho, ← i.operands_length, assemble_opcode_operands]

/-- The first cell alone decides whether the opcode is unknown: no row has its value (R84, R88). -/
theorem decodeWith_eq_unknownOpcode_iff {opc : OpcodeMap} {op : Word} {rest : List Word} :
    decodeWith opc (op :: rest) = .error (.unknownOpcode op) ↔ ∀ o, opc o ≠ op := by
  rw [← findOpcode_none, decodeWith]
  cases findOpcode opc op with
  | none => simp
  | some o => by_cases h : rest.length < operandCells o <;> simp [h]

/-- Settles O1: under an injective map the value of a row finds that row. -/
theorem decodeOfEncodeIsTheInstruction : Obligations.DecodeOfEncodeIsTheInstruction :=
  fun opc hopc i _ => decodeWith_eq_ok_iff.2 ⟨opc i.opcode, findOpcode_of_injective hopc i.opcode, rfl⟩

/-- Settles O2: the row that the first cell finds has that cell's value. -/
theorem encodeOfDecodeIsTheCells : Obligations.EncodeOfDecodeIsTheCells := by
  intro cells i rest h
  obtain ⟨op, hop, rfl⟩ := decodeWith_eq_ok_iff.1 h
  rw [← findOpcode_value hop]
  rfl

/-! ## The values of the default map -/

/-- The rows of the default map, in its order, have the values 0, 1, …, 0x22 (R86). -/
theorem map_opcodeValue_opcodes : opcodes.map opcodeValue = (List.range 35).map (BitVec.ofNat 32) := rfl

/-- The default map gives out exactly the values 0 to 0x22 (R86). -/
theorem exists_opcodeValue_eq_iff {op : Word} : (∃ o, opcodeValue o = op) ↔ op.toNat < 35 := by
  calc (∃ o, opcodeValue o = op) ↔ op ∈ opcodes.map opcodeValue := by simp [mem_opcodes]
    _ ↔ ∃ n < 35, BitVec.ofNat 32 n = op := by simp [map_opcodeValue_opcodes]
    _ ↔ op.toNat < 35 := by
      constructor
      · rintro ⟨n, hn, rfl⟩
        exact (Nat.mod_le _ _).trans_lt hn
      · exact fun h => ⟨op.toNat, h, by simp⟩

/-- The values without a row in the default map are the negative ones and those above 0x22 (R88). -/
theorem opcodeValue_ne_iff {op : Word} : (∀ o, opcodeValue o ≠ op) ↔ op.toInt < 0 ∨ 0x22 < op.toInt := by
  rw [← not_exists, exists_opcodeValue_eq_iff]
  have hw := word_toInt op
  omega

/-- Settles O3: the decoder refuses the values that no row of the default map has. -/
theorem unknownOpcodesAreThoseOutsideTheMap : Obligations.UnknownOpcodesAreThoseOutsideTheMap :=
  fun _ _ => decodeWith_eq_unknownOpcode_iff.trans opcodeValue_ne_iff

/-- The default map gives its rows different values (R86), so an instruction decodes from its own cells. -/
theorem decode_encode (i : Instr) : decode (encode i) = .ok (i, []) := by
  simpa [decode, encode] using decodeOfEncodeIsTheInstruction opcodeValue opcodeValue_injective i []

/-- Settles O4: each word is the encoding of the instruction beside it, and 0x1CF is above 0x22. -/
theorem writtenOutWordsDecode : Obligations.WrittenOutWordsDecode :=
  ⟨decode_encode (.pot 3), decode_encode .add, decode_encode .halt, decode_encode (.loadR8 7),
    decode_encode (.mov 0 1 3 100), decode_encode (.swap 1 2), decode_encode (.dvw 16), decode_encode .ret,
    (unknownOpcodesAreThoseOutsideTheMap 0x1CF []).2 (.inr (by decide))⟩

end Sys2Proof

namespace Sys2Proof.Machine

open Sys2Proof.Claims

/-! ## Fetching an unknown opcode -/

/-- Once the opcode cell is read, a value without a row ends the fetch before any operand cell (40_engine R101, R103). -/
theorem fetch_of_unknownOpcode {s : State} (hpc : IsCell s.pc)
    (hop : ∀ o, s.params.opcodeMap o ≠ readCell s.mem s.pc.toNat) :
    fetch s = .error (.unknownOpcode s.pc (readCell s.mem s.pc.toNat)) := by
  have hread : memRead s s.pc = .ok (readCell s.mem s.pc.toNat) := memRead_ok.2 ⟨decide_eq_true hpc, rfl⟩
  unfold fetch
  rw [hread, ok_bind, findOpcode_none.2 hop]

/-- The next step takes that fault (40_engine R103). -/
theorem faultTaken_of_unknownOpcode {s : State} (hm : s.mode = .running) (hpc : IsCell s.pc)
    (hop : ∀ o, s.params.opcodeMap o ≠ readCell s.mem s.pc.toNat) :
    FaultTaken s (.unknownOpcode s.pc (readCell s.mem s.pc.toNat)) :=
  faultTaken_of_execOne hm (execOne_of_fetch_error (fetch_of_unknownOpcode hpc hop))

/-- Settles O35: the fetch raises the fault under every map, and the default map's free values are those of R88. -/
theorem unknownOpcodeHaltsInPlace : Obligations.UnknownOpcodeHaltsInPlace := by
  refine ⟨fun _ => faultTaken_of_unknownOpcode, fun s hm hpc hmap hrange => faultTaken_of_unknownOpcode hm hpc ?_⟩
  rw [hmap]
  exact opcodeValue_ne_iff.2 hrange

end Sys2Proof.Machine
end

section
/-! PROOFS. The engine: what a `STEP` and a turn of `RUN` make of `Exec()`, the instruction that `Exec()` runs, and the record
that it appends (40_engine R100 to R112). -/

namespace Sys2Proof.Machine

open Sys2Proof.Claims

/-! ## Exec() -/

/-- A fetch that answers an instruction is followed by that instruction (40_engine R100). -/
theorem execOne_of_fetch_ok {s : State} {i : Instr} (h : fetch s = .ok i) : execOne s = exec i s := by
  unfold execOne
  rw [h]

/-- The model's test for a fault is the one of the statements (10_state R39). -/
theorem faulted_iff {t : State} : faulted t = true ↔ Faulted t := by
  unfold faulted
  constructor
  · split
    · rename_i f hm hc
      exact fun _ => ⟨hm, f, hc⟩
    · exact nofun
  · rintro ⟨hm, f, hc⟩
    rw [hm, hc]

/-- A taken fault is a fault. -/
theorem faulted_takeFault (f : CoreFault) (s : State) : Faulted (takeFault f s) := ⟨rfl, f, rfl⟩

/-! ## The record of a retired instruction -/

/-- What retires in a Running core leaves it Running or halted by `HALT`. -/
theorem Effect.not_faulted {i : Instr} {s t : State} (h : Effect s i t) (hs : s.mode = .running) : ¬ Faulted t := by
  rintro ⟨hm, f, hc⟩
  rcases h.mode_cause with ⟨hm', -⟩ | ⟨-, hc'⟩
  · rw [hm', hs] at hm
    cases hm
  · rw [hc'] at hc
    cases hc

/-- An instruction that retires appends one record, with the value that `OPC` gives its row (40_engine R112). -/
theorem Effect.retire_trace {i : Instr} {s t : State} (h : Effect s i t) :
    (retire i s t).trace = s.trace ++ [⟨s.pc, s.params.opcodeMap i.opcode, i.opcode, t.ws.reverse, t.rs.reverse, t.x,
      displayWindow t, false⟩] := by
  obtain ⟨-, -, -, hparams, -, -, htrace⟩ := h.sameOutside
  rw [Machine.retire_trace, htrace, ← hparams]
  rfl

/-- When `Exec()` of a Running core does not end in a fault, an instruction was fetched and retired. -/
theorem execOne_retired {s t : State} (h : execOne s = .next t) (ht : ¬ Faulted t) :
    ∃ i u, fetch s = .ok i ∧ Effect s i u ∧ t = retire i s u := by
  cases hf : fetch s with
  | error f =>
    rw [execOne_of_fetch_error hf] at h
    cases h
    exact absurd (faulted_takeFault f s) ht
  | ok i =>
    rw [execOne_of_fetch_ok hf] at h
    rcases exec_cases h with ⟨u, hu, e⟩ | ⟨f, rfl⟩
    · exact ⟨i, u, rfl, hu, e⟩
    · exact absurd (faulted_takeFault f s) ht

/-- Settles O37: an effect is no fault and leaves the streams to `retire`; the fetch ties the row to the cell. -/
theorem retiredInstructionsAreTraced : Obligations.RetiredInstructionsAreTraced := by
  refine ⟨fun i s t hs h => ?_, fun s t hs h ht => ?_⟩
  · rcases exec_cases h with ⟨u, hu, rfl⟩ | ⟨f, rfl⟩
    · exact .inr ⟨hu.not_faulted hs, readCell_zeroBelow _ _, hu.retire_trace⟩
    · exact .inl ⟨f, rfl, rfl⟩
  · obtain ⟨i, u, hf, hu, rfl⟩ := execOne_retired h ht
    obtain ⟨-, hop⟩ := fetch_ok hf
    exact ⟨i.opcode, hop, hop ▸ hu.retire_trace⟩

/-! ## Fetching the instruction that the cells decode to -/

theorem cellsAt_length (m : Memory) (a n : Nat) : (cellsAt m a n).length = n := by simp [cellsAt]

theorem cellsAt_succ (m : Memory) (a n : Nat) : cellsAt m a (n + 1) = readCell m a :: cellsAt m (a + 1) n := by
  simp [cellsAt, List.range_succ_eq_map, Function.comp_def, Nat.add_assoc, Nat.add_comm 1]

theorem cellsAt_add (m : Memory) (a j n : Nat) : cellsAt m a (j + n) = cellsAt m a j ++ cellsAt m (a + j) n := by
  simp [cellsAt, List.range_add, Function.comp_def, Nat.add_assoc]

/-- Cells in memory are read at their addresses, without wrapping around (00_scope R18). -/
theorem memRead_pc_add {s : State} {k : Nat} (h : s.pc.toNat + k < Config.memCells) :
    memRead s (s.pc + BitVec.ofNat 32 k) = .ok (readCell s.mem (s.pc.toNat + k)) := by
  have haddr : (s.pc + BitVec.ofNat 32 k).toNat = s.pc.toNat + k := by
    simp only [Config.memCells] at h
    rw [BitVec.toNat_add, BitVec.toNat_ofNat]
    omega
  exact memRead_ok.2 ⟨inMemory_iff.2 (haddr ▸ h), by rw [haddr]⟩

/-- Operand cells that are all in memory are read in address order (40_engine R104). -/
theorem readOperands_of_inMemory {s : State} {k n : Nat} (h : s.pc.toNat + k + n ≤ Config.memCells) :
    readOperands s k n = .ok (cellsAt s.mem (s.pc.toNat + k) n) := by
  induction n generalizing k with
  | zero => rfl
  | succ n ih =>
    have hread := memRead_pc_add (s := s) (k := k) (by omega)
    have hrest := ih (k := k + 1) (by omega)
    rw [readOperands, hread, ok_bind, hrest, ok_bind, cellsAt_succ]
    rfl

/-- Every handler reads all operand cells of its row, but for `SWAP` under `Stack` (41_data_movement R141). -/
theorem cellsRead_eq_operandCells {c : Params} {o : Opcode} (h : o = .swap → c.swapOperands = .inline) :
    cellsRead c o = operandCells o := by
  unfold cellsRead
  split
  · rename_i hs
    rw [h rfl] at hs
    cases hs
  · rfl

/-- The cells that start with an encoding hold the opcode cell, then the operand cells. -/
theorem cellsAt_eq_cons {m : Memory} {a n : Nat} {op : Word} {ks rest : List Word}
    (h : cellsAt m a n = op :: (ks ++ rest)) :
    readCell m a = op ∧ cellsAt m (a + 1) ks.length = ks ∧ 1 + ks.length ≤ n := by
  have hn : n = ks.length + rest.length + 1 := by
    simpa only [cellsAt_length, List.length_cons, List.length_append] using congrArg List.length h
  rw [hn, cellsAt_succ, cellsAt_add, List.cons.injEq] at h
  obtain ⟨hop, htail⟩ := h
  exact ⟨hop, (List.append_inj htail (cellsAt_length ..)).1, by omega⟩

/-- The fetch answers what the cells at `pc` decode to (40_engine R101, R102, R104). -/
theorem fetch_of_decodeWith {s : State} {i : Instr} {rest : List Word} {n : Nat}
    (hswap : i.opcode = .swap → s.params.swapOperands = .inline) (hn : s.pc.toNat + n ≤ Config.memCells)
    (h : decodeWith s.params.opcodeMap (cellsAt s.mem s.pc.toNat n) = .ok (i, rest)) : fetch s = .ok i := by
  obtain ⟨op, hrow, hcells⟩ := decodeWith_eq_ok_iff.1 h
  obtain ⟨rfl, hks, hlen⟩ := cellsAt_eq_cons hcells
  have hop : memRead s s.pc = .ok (readCell s.mem s.pc.toNat) := memRead_ok.2 ⟨inMemory_iff.2 (by omega), rfl⟩
  have hoperands : readOperands s 1 (cellsRead s.params i.opcode) = .ok i.operands := by
    rw [cellsRead_eq_operandCells hswap, ← i.operands_length, readOperands_of_inMemory (by omega), hks]
  unfold fetch
  rw [hop, ok_bind, hrow]
  dsimp only
  rw [hoperands, ok_bind, assemble_opcode_operands]
  rfl

/-! ## STEP and a turn of RUN on a Running core -/

/-- A `STEP` within the budget (40_engine R108). -/
theorem step_of_step_pending {s t : State} {cs : List Command} (hm : s.mode = .running) (hp : s.pending = .step :: cs)
    (hb : WithinBudget s) (ht : execOne s = .next t) : step s = .next (finishStatus cs (countRetired t)) := by
  rw [step_of_pending hp, performCommand, stepQuantum_of_withinBudget hm hb, ht]
  rfl

/-- A turn of `RUN` (40_engine R110). -/
theorem step_of_run_pending {s t : State} {cs : List Command} (hm : s.mode = .running) (hp : s.pending = .run :: cs)
    (ht : execOne s = .next t) : step s = .next (scanAfter t) := by
  rw [step_of_pending hp, performCommand_run_of_running hm, runIteration, ht]
  rfl

theorem countRetired_of_faulted {t : State} (h : Faulted t) : countRetired t = t := if_pos (faulted_iff.2 h)

theorem countRetired_of_not_faulted {t : State} (h : ¬ Faulted t) : countRetired t = t.setStepCount (t.stepCount + 1) :=
  if_neg (mt faulted_iff.1 h)

theorem scanAfter_of_perInstruction {t : State} (hp : t.params.scanPoint = .perInstruction) (h : ¬ Faulted t) :
    scanAfter t = scan Config.font t :=
  if_pos ⟨hp, Bool.eq_false_iff.2 (mt faulted_iff.1 h)⟩

theorem scanAfter_of_perQuantum_or_faulted {t : State} (h : t.params.scanPoint = .perQuantum ∨ Faulted t) :
    scanAfter t = t := by
  refine if_neg fun ⟨hp, hf⟩ => ?_
  rcases h with h | h
  · rw [h] at hp
    cases hp
  · rw [faulted_iff.2 h] at hf
    cases hf

/-- Settles O32: both commands are `Exec()` and what they do after it, and the fetch agrees with the decoder. -/
theorem stepRunsTheDecodedInstruction : Obligations.StepRunsTheDecodedInstruction := by
  refine ⟨fun s cs hm hp hb => ?_, fun s cs hm hp => ?_, fun s i rest n _ hswap _ hn h =>
    execOne_of_fetch_ok (fetch_of_decodeWith hswap hn h)⟩
  · obtain ⟨t, ht⟩ := execOne_isNext s
    have hstep := step_of_step_pending hm hp hb ht
    refine ⟨t, ht, fun hf => ?_, fun hf => ?_⟩
    · rw [hstep, countRetired_of_not_faulted hf]
      rfl
    · rw [hstep, countRetired_of_faulted hf]
      rfl
  · obtain ⟨t, ht⟩ := execOne_isNext s
    obtain ⟨-, -, hparams⟩ := execOne_counters ht
    have hstep := step_of_run_pending hm hp ht
    rw [← hparams]
    refine ⟨t, ht, fun ⟨hpoint, hf⟩ => ?_, fun h => ?_⟩
    · rw [hstep, scanAfter_of_perInstruction hpoint hf]
    · rw [hstep, scanAfter_of_perQuantum_or_faulted h]

end Sys2Proof.Machine
end

section
/-! PROOFS. `STEP` and `RUN` reach the same core (40_engine R114): no instruction reads the counter `step`, the queue of
commands or the reply, so the two modes run the same instructions. -/

namespace Sys2Proof.Machine

open Sys2Proof.Claims

/-! ## What the operations do not read -/

/-- The state without what tells a `STEP` from a turn of `RUN`: the counter `step`, the queue of commands and the reply. -/
def State.engine (s : State) : State := (s.setStepCount 0).setHost [] .none

section
variable (s : State)

@[simp] theorem engine_pc : s.engine.pc = s.pc := rfl
@[simp] theorem engine_reg (j : Fin 8) : s.engine.reg j = s.reg j := rfl
@[simp] theorem engine_params : s.engine.params = s.params := rfl
@[simp] theorem engine_stack (k : StackId) : s.engine.stack k = s.stack k := by cases k <;> rfl

@[simp] theorem setReg_engine (j : Fin 8) (v : Word) : s.engine.setReg j v = (s.setReg j v).engine := rfl
@[simp] theorem setPc_engine (v : Word) : s.engine.setPc v = (s.setPc v).engine := rfl
@[simp] theorem portWrite_engine (p : Nat) (v : Word) : portWrite s.engine p v = (portWrite s p v).engine := rfl
@[simp] theorem advance_engine (n : Nat) : s.engine.advance n = (s.advance n).engine := rfl
@[simp] theorem setStack_engine (k : StackId) (l : List Word) : s.engine.setStack k l = (s.setStack k l).engine := by
  cases k <;> rfl

@[simp] theorem memRead_engine (a : Word) : memRead s.engine a = memRead s a := rfl
@[simp] theorem peek_engine (k : StackId) (n : Nat) : peek k s.engine n = peek k s n := rfl
@[simp] theorem portIndex_engine (p : Word) : portIndex s.engine p = portIndex s p := rfl
@[simp] theorem portValue_engine (v : Word) : portValue s.engine v = portValue s v := rfl
@[simp] theorem regIndex_engine (n : Word) : regIndex s.engine n = regIndex s n := rfl
@[simp] theorem movMode_engine (f : Word) : movMode s.engine f = movMode s f := rfl
@[simp] theorem movSource_engine (m : MovMode) (a : Word) : movSource s.engine m a = movSource s m a := rfl
@[simp] theorem arith_engine (v : Int) : arith s.engine v = arith s v := rfl
@[simp] theorem powArith_engine (a b : Word) : powArith s.engine a b = powArith s a b := rfl

/-! ## Pseudocode that ends in a state

It raises the same fault, or ends in the same engine. -/

@[simp] theorem memWrite_engine (a v : Word) : memWrite s.engine a v = State.engine <$> memWrite s a v := by
  unfold memWrite
  split <;> rfl

@[simp] theorem push_engine (k : StackId) (v : Word) : push k s.engine v = State.engine <$> push k s v := by
  unfold push
  rw [engine_stack]
  split <;> simp

@[simp] theorem pop_engine (k : StackId) : pop k s.engine = Prod.map id State.engine <$> pop k s := by
  unfold pop
  rw [engine_stack]
  cases s.stack k <;> simp

@[simp] theorem setTop_engine (k : StackId) (v : Word) : setTop k s.engine v = State.engine <$> setTop k s v := by
  unfold setTop
  rw [engine_stack]
  cases s.stack k <;> simp

@[simp] theorem popTwo_engine : popTwo s.engine = Prod.map id (Prod.map id State.engine) <$> popTwo s := by
  simp [popTwo, map_bind]

@[simp] theorem movDest_engine (m : MovMode) (a v : Word) : movDest s.engine m a v = State.engine <$> movDest s m a v := by
  cases m <;> simp [movDest, map_bind]

@[simp] theorem swapNumbers_engine (k1 k2 : Word) :
    swapNumbers s.engine k1 k2 = Prod.map id (Prod.map id State.engine) <$> swapNumbers s k1 k2 := by
  unfold swapNumbers
  rw [engine_params]
  cases s.params.swapOperands <;> simp [map_bind]

@[simp] theorem binaryArith_engine (f : Int → Int → Int) : binaryArith f s.engine = State.engine <$> binaryArith f s := by
  simp [binaryArith, map_bind]

@[simp] theorem comparison_engine (c : Int → Int → Bool) : comparison c s.engine = State.engine <$> comparison c s := by
  simp [comparison, map_bind]

@[simp] theorem changeTop_engine (f : Int → Int) : changeTop f s.engine = State.engine <$> changeTop f s := by
  simp [changeTop, map_bind]

@[simp] theorem jumpToTop_engine : jumpToTop s.engine = State.engine <$> jumpToTop s := by
  simp [jumpToTop, map_bind]

@[simp] theorem loadImmediate_engine (j : Fin 8) (k : Word) :
    loadImmediate s.engine j k = State.engine <$> loadImmediate s j k := rfl

/-- A handler whose pseudocode does not read what `engine` drops commits the same change. -/
theorem commit_engine {i : Instr} {r r' : Except CoreFault State} (h : r' = State.engine <$> r) :
    commit i s.engine r' = onNext (commit i s r) State.engine := by
  subst h
  cases r <;> rfl

theorem execDvo_engine (p : Word) : execDvo p s.engine = onNext (execDvo p s) State.engine := by
  refine commit_engine s ?_
  rw [portIndex_engine, map_bind]
  congr 1
  funext n
  dsimp only
  cases consoleStream n <;> rfl

/-- No instruction reads the counter `step`, the queue or the reply. -/
theorem exec_engine (i : Instr) : exec i s.engine = onNext (exec i s) State.engine := by
  cases i with
  | halt => rfl
  | loadR1 k => rfl
  | loadR2 k => rfl
  | loadR3 k => rfl
  | loadR4 k => rfl
  | loadR5 k => rfl
  | loadR6 k => rfl
  | loadR7 k => rfl
  | loadR8 k => rfl
  | add => exact commit_engine s (binaryArith_engine s _)
  | sub => exact commit_engine s (binaryArith_engine s _)
  | push n => exact commit_engine s (by simp [map_bind])
  | pop n => exact commit_engine s (by simp [map_bind])
  | equal => exact commit_engine s (comparison_engine s _)
  | gth => exact commit_engine s (comparison_engine s _)
  | lth => exact commit_engine s (comparison_engine s _)
  | dup => exact commit_engine s (by simp [map_bind])
  | pot k => exact commit_engine s (by simp [map_bind])
  | ovr => exact commit_engine s (by simp [map_bind])
  | inc => exact commit_engine s (changeTop_engine s _)
  | dcr => exact commit_engine s (changeTop_engine s _)
  | mov f1 f2 a1 a2 => exact commit_engine s (by simp [map_bind])
  | str => exact commit_engine s (by simp [map_bind])
  | sqrt => exact commit_engine s (by simp [map_bind, apply_ite (Functor.map State.engine)])
  | abs => exact commit_engine s (by simp [map_bind])
  | pow => exact commit_engine s (by simp [map_bind, apply_ite (Functor.map State.engine)])
  | dvo p => exact execDvo_engine s p
  | dvw p => exact commit_engine s (by simp [map_bind])
  | swap k1 k2 => exact commit_engine s (by simp [map_bind])
  | goto => exact commit_engine s (by simp [map_bind])
  | jmp => exact commit_engine s (jumpToTop_engine s)
  | rmv => exact commit_engine s (by simp [map_bind])
  | jnz => exact commit_engine s (by simp [map_bind, apply_ite (Functor.map State.engine)])
  | rpc => exact commit_engine s (by simp [map_bind])
  | ret => exact commit_engine s (by simp [map_bind])

theorem readOperands_engine (k n : Nat) : readOperands s.engine k n = readOperands s k n := by
  induction n generalizing k with
  | zero => rfl
  | succ n ih => simp [readOperands, ih]

theorem fetch_engine : fetch s.engine = fetch s := by
  unfold fetch
  simp only [engine_params, readOperands_engine, engine_pc, memRead_engine]

/-- `Exec()` does not read the counter `step`, the queue or the reply (40_engine R100). -/
theorem execOne_engine : execOne s.engine = onNext (execOne s) State.engine := by
  unfold execOne
  rw [fetch_engine]
  cases fetch s with
  | error f => rfl
  | ok i => exact exec_engine s i

end

/-! ## The simulation -/

/-- `Exec()` takes states with the same engine to states with the same engine. -/
theorem execOne_same_engine {s t s' t' : State} (h : s.engine = t.engine) (hs : execOne s = .next s')
    (ht : execOne t = .next t') : s'.engine = t'.engine := by
  have e : onNext (execOne s) State.engine = onNext (execOne t) State.engine := by
    rw [← execOne_engine, h, execOne_engine]
  rw [hs, ht] at e
  exact Host.Outcome.next.inj e

theorem sameCore_of_engine {s t : State} (h : s.engine = t.engine) : SameCore s t := by
  have field {α : Type} (f : State → α) : f s.engine = f t.engine := congrArg f h
  exact ⟨field State.mem, field State.x, field State.pc, field State.ws, field State.rs, field State.dev,
    field State.mode, field State.cause⟩

theorem execOne_pending {s u : State} (hu : execOne s = .next u) : u.pending = s.pending := by
  rcases execOne_cases hu with ⟨i, t, ht, rfl⟩ | ⟨f, rfl⟩
  · obtain ⟨-, -, -, -, hpending, -⟩ := ht.sameOutside
    exact hpending
  · rfl

theorem countRetired_engine (t : State) : (countRetired t).engine = t.engine := by
  unfold countRetired
  split <;> rfl

/-- At most one is counted; `steps` and the parameters stay. -/
theorem countRetired_counters (t : State) :
    (countRetired t).stepCount ≤ t.stepCount + 1 ∧ (countRetired t).steps = t.steps ∧
      (countRetired t).params = t.params := by
  unfold countRetired
  split
  · exact ⟨Nat.le_succ _, rfl, rfl⟩
  · exact ⟨Nat.le_refl _, rfl, rfl⟩

/-- `t` is to carry out `k` `STEP`s within its budget, `u` a `RUN` that may have ended, and their engines are the same. -/
structure InLockstep (k : Nat) (t u : State) : Prop where
  engine : t.engine = u.engine
  steps : t.pending = List.replicate k .step
  run : u.pending = [.run] ∨ (u.mode = .halted ∧ u.pending = [])
  source : t.params.budgetSource = .stepsField
  point : t.params.scanPoint = .perQuantum
  budget : t.stepCount + k ≤ t.steps

section
variable {k : Nat} {t u : State}

/-- On a Halted core a `STEP`, a turn of `RUN` and an empty queue all leave the engine as it is (40_engine R107). -/
theorem InLockstep.step_halted (h : InLockstep (k + 1) t u) (hm : t.mode = .halted) :
    ∃ t' u', step t = .next t' ∧ step u = .next u' ∧ InLockstep k t' u' := by
  obtain ⟨hengine, hsteps, hrun, hsource, hpoint, hbudget⟩ := h
  have hmu : u.mode = .halted := (congrArg State.mode hengine).symm.trans hm
  have ht := haltedStepAndRunChangeNothing t .step (List.replicate k .step) hm (.inl rfl) hsteps
  have hbudget' : t.stepCount + k ≤ t.steps := by omega
  rcases hrun with hp | ⟨-, hp⟩
  · have hu := haltedStepAndRunChangeNothing u .run [] hmu (.inr rfl) hp
    exact ⟨_, _, ht, hu, hengine, rfl, .inr ⟨hmu, rfl⟩, hsource, hpoint, hbudget'⟩
  · have hu : step u = .next u := by
      unfold step performNext
      rw [hp]
    exact ⟨_, _, ht, hu, hengine, rfl, .inr ⟨hmu, hp⟩, hsource, hpoint, hbudget'⟩

/-- On a Running core both modes are the same `Exec()`: the `STEP` only counts, and the turn of `RUN` does not scan. -/
theorem InLockstep.step_running (h : InLockstep (k + 1) t u) (hm : t.mode = .running) :
    ∃ t' u', step t = .next t' ∧ step u = .next u' ∧ InLockstep k t' u' := by
  obtain ⟨hengine, hsteps, hrun, hsource, hpoint, hbudget⟩ := h
  have hmu : u.mode = .running := (congrArg State.mode hengine).symm.trans hm
  have hpu : u.pending = [.run] := by
    rcases hrun with hp | ⟨hh, -⟩
    · exact hp
    · rw [hmu] at hh
      cases hh
  obtain ⟨v, hv⟩ := execOne_isNext t
  obtain ⟨w, hw⟩ := execOne_isNext u
  have hvw : v.engine = w.engine := execOne_same_engine hengine hv hw
  obtain ⟨hvsteps, hvcount, hvparams⟩ := execOne_counters hv
  obtain ⟨hcount, hcsteps, hcparams⟩ := countRetired_counters v
  have hwpoint : w.params.scanPoint = .perQuantum := by
    have hvw' : v.engine.params = w.engine.params := congrArg State.params hvw
    rw [engine_params, engine_params] at hvw'
    rw [← hvw', hvparams, hpoint]
  have ht := step_of_step_pending hm hsteps (.inl ⟨hsource, by omega⟩) hv
  have hu := step_of_run_pending hmu hpu hw
  rw [scanAfter_of_perQuantum_or_faulted (.inl hwpoint)] at hu
  refine ⟨_, _, ht, hu, (countRetired_engine v).trans hvw, rfl, .inl ((execOne_pending hw).trans hpu), ?_, ?_, ?_⟩
  · exact (congrArg Params.budgetSource (hcparams.trans hvparams)).trans hsource
  · exact (congrArg Params.scanPoint (hcparams.trans hvparams)).trans hpoint
  · change (countRetired v).stepCount + k ≤ (countRetired v).steps
    omega

theorem InLockstep.step (h : InLockstep (k + 1) t u) :
    ∃ t' u', Machine.step t = .next t' ∧ Machine.step u = .next u' ∧ InLockstep k t' u' := by
  cases hm : t.mode with
  | halted => exact h.step_halted hm
  | running => exact h.step_running hm

theorem run_succ_of_step {M : Host.Core} {s s' : M.State} (h : M.step s = .next s') (k : Nat) :
    M.run (k + 1) s = M.run k s' := by
  rw [Host.Core.run, h]

/-- The two runs stay in lockstep to their end. -/
theorem InLockstep.run_core {t' u' : State} (h : InLockstep k t u) (ht : Host.Core.run Sys2Proof.core k t = .next t')
    (hu : Host.Core.run Sys2Proof.core k u = .next u') : InLockstep 0 t' u' := by
  induction k generalizing t u with
  | zero =>
    cases ht
    cases hu
    exact h
  | succ k ih =>
    obtain ⟨t₁, u₁, ht₁, hu₁, h₁⟩ := h.step
    exact ih h₁ ((run_succ_of_step (M := Sys2Proof.core) ht₁ k).symm.trans ht)
      ((run_succ_of_step (M := Sys2Proof.core) hu₁ k).symm.trans hu)

end

/-- Settles O48: the two runs start in lockstep, and what `engine` keeps is what R114 compares. -/
theorem stepsReachWhatRunReaches : Obligations.StepsReachWhatRunReaches := by
  intro k s t u hsource hpoint hbudget ht hu
  have hstart : InLockstep k { s with pending := List.replicate k .step } { s with pending := [.run] } :=
    ⟨rfl, rfl, .inl rfl, hsource, hpoint, hbudget⟩
  exact sameCore_of_engine (hstart.run_core ht hu).engine

end Sys2Proof.Machine
end

section
/-! PROOFS. Pseudocode run forwards: what each line answers or raises when its precondition is known, and the fault of
an operand cell outside memory, for every row of the opcode map (00_scope R14 to R16, 40_engine R100 to R105). -/

namespace Sys2Proof.Machine

open Sys2Proof.Claims

/-! ## Sequencing -/

section
variable {α β : Type} {x : Except CoreFault α} {f : α → Except CoreFault β}

/-- A line that answers is followed by the rest. -/
theorem bind_of_ok {a : α} {r : Except CoreFault β} (hx : x = .ok a) (hf : f a = r) : (x >>= f) = r := by
  rw [hx, ok_bind, hf]

/-- A line that raises ends the sequence. -/
theorem bind_of_error {e : CoreFault} (hx : x = .error e) : (x >>= f) = .error e := by
  rw [hx, error_bind]

end

/-- A handler without a `raise` retires (40_engine R105). -/
theorem commit_of_ok {i : Instr} {s t : State} {r : Except CoreFault State} (h : r = .ok t) :
    commit i s r = .next (retire i s t) := by
  rw [h, commit_ok]

/-- A handler with a `raise` takes the fault (60_exceptions R276). -/
theorem commit_of_error {i : Instr} {s : State} {r : Except CoreFault State} {f : CoreFault} (h : r = .error f) :
    commit i s r = .next (takeFault f s) := by
  rw [h, commit_error]

/-! ## Register operands -/

theorem regIndex_of_names {n : Word} {j : Fin 8} (s : State) (h : Names n j) : regIndex s n = .ok j := by
  have hw := word_toInt n
  unfold Names at h
  exact regIndex_ok.2 (by omega)

theorem regIndex_of_not_isReg {n : Word} (s : State) (h : ¬ IsReg n) : regIndex s n = .error (.illegalOperand s.pc n) :=
  regIndex_error.2 ⟨h, rfl⟩

/-- Every register number names a slot (00_scope R14). -/
theorem exists_names_of_isReg {n : Word} (h : IsReg n) : ∃ j, Names n j := by
  obtain ⟨h1, h8⟩ := h
  refine ⟨⟨n.toInt.toNat - 1, by omega⟩, ?_⟩
  simp only [Names]
  omega

/-! ## Memory -/

theorem memRead_of_isCell {s : State} {a : Word} (h : IsCell a) : memRead s a = .ok (readCell s.mem a.toNat) :=
  memRead_ok.2 ⟨decide_eq_true h, rfl⟩

theorem memRead_of_not_isCell {s : State} {a : Word} (h : ¬ IsCell a) : memRead s a = .error (.memoryFault s.pc a) :=
  memRead_error.2 ⟨decide_eq_false h, rfl⟩

theorem memWrite_of_isCell {s : State} {a : Word} (v : Word) (h : IsCell a) :
    memWrite s a v = .ok (s.setMem (writeCell s.mem a.toNat v)) :=
  memWrite_ok.2 ⟨decide_eq_true h, rfl⟩

theorem memWrite_of_not_isCell {s : State} {a : Word} (v : Word) (h : ¬ IsCell a) :
    memWrite s a v = .error (.memoryFault s.pc a) :=
  memWrite_error.2 ⟨decide_eq_false h, rfl⟩

/-- Writing one cell of memory in canonical form is what `ReadsWith` says (20_memory R63). -/
theorem readsWith_writeCell {m : Memory} (h : Memory.wf m) (a : Nat) (v : Word) :
    ReadsWith (writeCell m a v) m a v := by
  obtain ⟨hm, -⟩ := h
  exact fun b => readCell_writeCell hm a b v

/-! ## The working stack -/

theorem push_ws_of_lt {s : State} (v : Word) (h : s.ws.length < Config.wsCap) :
    push .ws s v = .ok (s.setWs (v :: s.ws)) :=
  push_ok.2 ⟨h, rfl⟩

theorem push_ws_of_full {s : State} (v : Word) (h : s.ws.length = Config.wsCap) :
    push .ws s v = .error (.stackOverflow s.pc .ws) :=
  push_error.2 ⟨h.ge, rfl⟩

theorem pop_ws_of_cons {s : State} {v : Word} {rest : List Word} (h : s.ws = v :: rest) :
    pop .ws s = .ok (v, s.setWs rest) :=
  pop_ok.2 ⟨rest, h, rfl⟩

theorem pop_ws_of_nil {s : State} (h : s.ws = []) : pop .ws s = .error (.stackUnderflow s.pc .ws) :=
  pop_error.2 ⟨h, rfl⟩

theorem peek_ws_of_lt {s : State} {n : Nat} (h : n < s.ws.length) : peek .ws s n = .ok s.ws[n] :=
  peek_ok.2 (List.getElem?_eq_getElem h)

theorem peek_ws_of_le {s : State} {n : Nat} (h : s.ws.length ≤ n) :
    peek .ws s n = .error (.stackUnderflow s.pc .ws) :=
  peek_error.2 ⟨List.getElem?_eq_none h, rfl⟩

theorem popTwo_of_cons {s : State} {a b : Word} {rest : List Word} (h : s.ws = a :: b :: rest) :
    popTwo s = .ok (a, b, s.setWs rest) :=
  popTwo_ok.2 ⟨rest, h, rfl⟩

theorem popTwo_of_lt {s : State} (h : s.ws.length < 2) : popTwo s = .error (.stackUnderflow s.pc .ws) :=
  popTwo_error.2 ⟨h, rfl⟩

/-! ## Operand cells -/

/-- With the row's value in the opcode cell, the fetch goes on to the operand cells (40_engine R101, R102, R104). -/
theorem fetch_of_opcodeCell {s : State} {o : Opcode} (hopc : Function.Injective s.params.opcodeMap) (hpc : IsCell s.pc)
    (ho : readCell s.mem s.pc.toNat = s.params.opcodeMap o) :
    fetch s = readOperands s 1 (cellsRead s.params o) >>= fun ks => .ok (assemble o ks) := by
  unfold fetch
  rw [memRead_of_isCell hpc, ok_bind, ho, findOpcode_of_injective hopc]
  rfl

/-- The first operand cell outside memory is the one that raises (40_engine R104). -/
theorem readOperands_of_not_isCell {s : State} {a n k : Nat} (ha : a ≤ k) (hk : k < a + n)
    (hbefore : ∀ j, a ≤ j → j < k → IsCell (s.pc + BitVec.ofNat 32 j)) (hat : ¬ IsCell (s.pc + BitVec.ofNat 32 k)) :
    readOperands s a n = .error (.memoryFault s.pc (s.pc + BitVec.ofNat 32 k)) := by
  induction n generalizing a with
  | zero => omega
  | succ n ih =>
    rcases Nat.eq_or_lt_of_le ha with rfl | hlt
    · exact bind_of_error (memRead_of_not_isCell hat)
    · exact bind_of_ok (memRead_of_isCell (hbefore a le_rfl hlt))
        (bind_of_error (ih hlt (by omega) fun j hj => hbefore j (by omega)))

/-- Every row faults at its first operand cell outside memory; `SWAP` does when it reads them (40_engine R104). -/
theorem operandCellFaults {o : Opcode} {k : Nat} (h1 : 1 ≤ k) (hk : k ≤ operandCells o) : OperandCellFaults o k := by
  intro s _ hswap hopc hpc ho hbefore hat
  apply execOne_of_fetch_error
  rw [fetch_of_opcodeCell hopc hpc ho, cellsRead_eq_operandCells hswap]
  exact bind_of_error (readOperands_of_not_isCell h1 (by omega) hbefore hat)

end Sys2Proof.Machine
end

section
/-! PROOFS. The data movement instructions (41_data_movement R130 to R142): each handler's lines in their order, up to
the one that raises or to the state that retires. -/

namespace Sys2Proof.Machine

open Sys2Proof.Claims

/-! ## LOAD -/

/-- What makes a row a `LOAD`: its encoding, its one operand cell, and the immediate that its handler commits (R130). -/
theorem loadsInto_of_loadImmediate {i : Word → Instr} {o : Opcode} {op : Word} {j : Fin 8}
    (hcells : ∀ k, encode (i k) = [op, k]) (ho : operandCells o = 1)
    (hexec : ∀ s k, exec (i k) s = commit (i k) s (loadImmediate s j k)) : LoadsInto i o op j :=
  ⟨hcells, operandCellFaults le_rfl ho.ge, fun s k => (hexec s k).trans (commit_of_ok rfl)⟩

/-- Settles O5: each of the eight rows commits the immediate of its own slot. -/
theorem loadWritesItsRegister : Obligations.LoadWritesItsRegister := by
  refine ⟨?_, ?_, ?_, ?_, ?_, ?_, ?_, ?_⟩ <;>
    exact loadsInto_of_loadImmediate (fun _ => rfl) rfl fun _ _ => rfl

/-! ## PUSH and POP -/

section
variable {s : State} {n : Word} {j : Fin 8}

theorem exec_push_of_names (hn : Names n j) (hroom : s.ws.length < Config.wsCap) :
    exec (.push n) s = .next (retire (.push n) s { s with ws := s.x[j] :: s.ws, pc := s.pc + 2 }) :=
  commit_of_ok (bind_of_ok (regIndex_of_names s hn) (bind_of_ok (push_ws_of_lt _ hroom) rfl))

theorem exec_pop_of_names {v : Word} {rest : List Word} (hn : Names n j) (hws : s.ws = v :: rest) :
    exec (.pop n) s = .next (retire (.pop n) s { s with x := s.x.set j v, ws := rest, pc := s.pc + 2 }) :=
  commit_of_ok (bind_of_ok (regIndex_of_names s hn) (bind_of_ok (pop_ws_of_cons hws) rfl))

/-- `PUSH Rn; POP Rn` writes back to the register what it holds (R142). -/
theorem exec_push_pop (hn : Names n j) (hroom : s.ws.length < Config.wsCap) :
    ∃ t u, exec (.push n) s = .next t ∧ exec (.pop n) t = .next u ∧ u.x = s.x ∧ u.ws = s.ws :=
  ⟨_, _, exec_push_of_names hn hroom, exec_pop_of_names hn rfl, Vector.set_getElem_self _, rfl⟩

/-- `POP Rn; PUSH Rn` copies the top of the stack to the register (R142). -/
theorem exec_pop_push {v : Word} {rest : List Word} (hn : Names n j) (hws : s.ws = v :: rest)
    (hcap : s.ws.length ≤ Config.wsCap) :
    ∃ t u, exec (.pop n) s = .next t ∧ exec (.push n) t = .next u ∧ u.ws = s.ws ∧ u.x = s.x.set j v := by
  have hroom : rest.length < Config.wsCap := by
    rw [hws] at hcap
    exact hcap
  refine ⟨_, _, exec_pop_of_names hn hws, exec_push_of_names hn hroom, ?_, rfl⟩
  calc (s.x.set j v)[j] :: rest = v :: rest := by rw [Fin.getElem_fin, Vector.getElem_set_self]
    _ = s.ws := hws.symm

end

/-- Settles O6: the operand is checked before the stack. -/
theorem pushPushesTheRegister : Obligations.PushPushesTheRegister := by
  refine ⟨fun _ => rfl, operandCellFaults le_rfl le_rfl, fun _ _ _ => exec_push_of_names, fun s n hn => ?_,
    fun s n hn hfull => ?_⟩
  · exact commit_of_error (bind_of_error (regIndex_of_not_isReg s hn))
  · obtain ⟨j, hj⟩ := exists_names_of_isReg hn
    exact commit_of_error (bind_of_ok (regIndex_of_names s hj) (bind_of_error (push_ws_of_full _ hfull)))

/-- Settles O7: the operand is checked before the pop. -/
theorem popPopsIntoTheRegister : Obligations.PopPopsIntoTheRegister := by
  refine ⟨fun _ => rfl, operandCellFaults le_rfl le_rfl, fun _ _ _ _ _ => exec_pop_of_names, fun s n hn => ?_,
    fun s n hn hempty => ?_⟩
  · exact commit_of_error (bind_of_error (regIndex_of_not_isReg s hn))
  · obtain ⟨j, hj⟩ := exists_names_of_isReg hn
    exact commit_of_error (bind_of_ok (regIndex_of_names s hj) (bind_of_error (pop_ws_of_nil hempty)))

/-- Settles O16: the second pass of `POP; PUSH` starts from the stack of the first, and sets the register to the value
it already holds. -/
theorem pushPopRoundTrips : Obligations.PushPopRoundTrips := by
  refine ⟨fun s n hn hroom => ?_, fun s n j v rest hn hws hcap => ?_⟩
  · obtain ⟨j, hj⟩ := exists_names_of_isReg hn
    exact exec_push_pop hj hroom
  · obtain ⟨t, u, ht, hu, huws, hux⟩ := exec_pop_push hn hws hcap
    obtain ⟨t', u', ht', hu', huws', hux'⟩ := exec_pop_push hn (huws.trans hws) (huws ▸ hcap)
    refine ⟨t, u, t', u', ht, hu, huws, hux, ht', hu', huws', ?_⟩
    rw [hux', hux, Vector.set_set]

/-! ## The stack: POT, DUP, OVR, RMV -/

/-- Settles O8: the literal needs no check of its own, so a full stack is the only fault. -/
theorem potPushesTheLiteral : Obligations.PotPushesTheLiteral :=
  ⟨fun _ => rfl, operandCellFaults le_rfl le_rfl,
    fun _ _ hroom => commit_of_ok (bind_of_ok (push_ws_of_lt _ hroom) rfl),
    fun _ _ hfull => commit_of_error (bind_of_error (push_ws_of_full _ hfull))⟩

/-- Settles O9: a full stack has a top to read, and then no room for it. -/
theorem dupDuplicatesTheTop : Obligations.DupDuplicatesTheTop := by
  refine ⟨rfl, fun s hlt => ?_, fun s v rest hws hroom => ?_, fun s hfull => ?_⟩
  · exact commit_of_error (bind_of_error (peek_ws_of_le (Nat.le_of_lt_succ hlt)))
  · have htop : peek .ws s 0 = .ok v := peek_ok.2 (by rw [State.stack_ws, hws]; rfl)
    rw [← hws]
    exact commit_of_ok (bind_of_ok htop (bind_of_ok (push_ws_of_lt v hroom) rfl))
  · have hpos : 0 < s.ws.length := hfull ▸ by decide
    exact commit_of_error (bind_of_ok (peek_ws_of_lt hpos) (bind_of_error (push_ws_of_full _ hfull)))

/-- Settles O10: a full stack has a second entry to read, and then no room for it. -/
theorem ovrDuplicatesTheSecond : Obligations.OvrDuplicatesTheSecond := by
  refine ⟨rfl, fun s hlt => ?_, fun s a b rest hws hroom => ?_, fun s hfull => ?_⟩
  · exact commit_of_error (bind_of_error (peek_ws_of_le (Nat.le_of_lt_succ hlt)))
  · have hsecond : peek .ws s 1 = .ok b := peek_ok.2 (by rw [State.stack_ws, hws]; rfl)
    rw [← hws]
    exact commit_of_ok (bind_of_ok hsecond (bind_of_ok (push_ws_of_lt b hroom) rfl))
  · have htwo : 1 < s.ws.length := hfull ▸ by decide
    exact commit_of_error (bind_of_ok (peek_ws_of_lt htwo) (bind_of_error (push_ws_of_full _ hfull)))

/-- Settles O11: the popped value is dropped. -/
theorem rmvDiscardsTheTop : Obligations.RmvDiscardsTheTop := by
  refine ⟨rfl, fun s hlt => ?_, fun s v rest hws => ?_⟩
  · exact commit_of_error (bind_of_error (pop_ws_of_nil (List.eq_nil_of_length_eq_zero (Nat.lt_one_iff.1 hlt))))
  · exact commit_of_ok (bind_of_ok (pop_ws_of_cons hws) rfl)

/-! ## STR -/

/-- Settles O12: both values are popped before the address is checked, and a fault discards the pops. -/
theorem strStoresTheValue : Obligations.StrStoresTheValue := by
  refine ⟨rfl, fun s hlt => ?_, fun s addr v rest hws haddr hwf => ?_, fun s addr v rest hws haddr => ?_⟩
  · exact commit_of_error (bind_of_error (popTwo_of_lt hlt))
  · exact ⟨_, readsWith_writeCell hwf addr.toNat v,
      commit_of_ok (bind_of_ok (popTwo_of_cons hws) (bind_of_ok (memWrite_of_isCell v haddr) rfl))⟩
  · exact commit_of_error (bind_of_ok (popTwo_of_cons hws) (bind_of_error (memWrite_of_not_isCell v haddr)))

/-! ## MOV -/

section
variable {s : State} {f f1 f2 a a1 a2 v : Word} {m m1 m2 : MovMode} {e : CoreFault}

theorem movMode_zero (s : State) : movMode s 0 = .ok .register := rfl

theorem movMode_one (s : State) : movMode s 1 = .ok .memory := rfl

/-- A legal flag has a mode (R138). -/
theorem exists_movMode (s : State) (h : f = 0 ∨ f = 1) : ∃ m, movMode s f = .ok m := by
  rcases h with rfl | rfl
  · exact ⟨_, movMode_zero s⟩
  · exact ⟨_, movMode_one s⟩

theorem movMode_of_ne (s : State) (h0 : f ≠ 0) (h1 : f ≠ 1) : movMode s f = .error (.illegalOperand s.pc f) := by
  rw [movMode, if_neg h0, if_neg h1]

theorem movSource_of_names {i : Fin 8} (h : Names a i) : movSource s .register a = .ok (s.reg i) :=
  bind_of_ok (regIndex_of_names s h) rfl

theorem movDest_of_names {i : Fin 8} (h : Names a i) : movDest s .register a v = .ok (s.setReg i v) :=
  bind_of_ok (regIndex_of_names s h) rfl

/-- A legal source flag with an operand that it accepts has a value (R138, R139). -/
theorem exists_movSource (s : State) (h : f = 0 ∧ IsReg a ∨ f = 1 ∧ IsCell a) :
    ∃ m v, movMode s f = .ok m ∧ movSource s m a = .ok v := by
  rcases h with ⟨rfl, ha⟩ | ⟨rfl, ha⟩
  · obtain ⟨i, hi⟩ := exists_names_of_isReg ha
    exact ⟨_, _, movMode_zero s, movSource_of_names hi⟩
  · exact ⟨_, _, movMode_one s, memRead_of_isCell ha⟩

/-- `MOV` retires when both flags and both operands are accepted (R139). -/
theorem exec_mov_retires {t : State} (h1 : movMode s f1 = .ok m1) (h2 : movMode s f2 = .ok m2)
    (hsource : movSource s m1 a1 = .ok v) (hdest : movDest s m2 a2 v = .ok t) :
    exec (.mov f1 f2 a1 a2) s = .next (retire (.mov f1 f2 a1 a2) s (t.advance 5)) :=
  commit_of_ok (bind_of_ok h1 (bind_of_ok h2 (bind_of_ok hsource (bind_of_ok hdest rfl))))

/-- The source operand is read after both flags are accepted (R139). -/
theorem exec_mov_of_source_error (h1 : movMode s f1 = .ok m1) (hf2 : f2 = 0 ∨ f2 = 1)
    (hsource : movSource s m1 a1 = .error e) : exec (.mov f1 f2 a1 a2) s = .next (takeFault e s) := by
  obtain ⟨m2, h2⟩ := exists_movMode s hf2
  exact commit_of_error (bind_of_ok h1 (bind_of_ok h2 (bind_of_error hsource)))

/-- The destination operand is checked last (R139). -/
theorem exec_mov_of_dest_error (hf1 : f1 = 0 ∧ IsReg a1 ∨ f1 = 1 ∧ IsCell a1) (h2 : movMode s f2 = .ok m2)
    (hdest : ∀ v, movDest s m2 a2 v = .error e) : exec (.mov f1 f2 a1 a2) s = .next (takeFault e s) := by
  obtain ⟨m1, v, h1, hsource⟩ := exists_movSource s hf1
  exact commit_of_error (bind_of_ok h1 (bind_of_ok h2 (bind_of_ok hsource (bind_of_error (hdest v)))))

end

/-- Settles O13: the flags in order, then the source, then the destination. -/
theorem movMovesOneCell : Obligations.MovMovesOneCell := by
  refine ⟨fun _ _ _ _ => rfl, fun _ => operandCellFaults (o := .mov), fun s a1 a2 i j hi hj => ?_,
    fun s a1 a2 i hi ha2 hwf => ⟨_, readsWith_writeCell hwf a2.toNat s.x[i], ?_⟩, fun s a1 a2 j ha1 hj => ?_,
    fun s a1 a2 ha1 ha2 hwf => ⟨_, readsWith_writeCell hwf a2.toNat (readCell s.mem a1.toNat), ?_⟩,
    fun s f1 f2 a1 a2 h0 h1 => ?_, fun s f1 f2 a1 a2 hf1 h0 h1 => ?_, fun s f2 a1 a2 hf2 ha1 => ?_,
    fun s f2 a1 a2 hf2 ha1 => ?_, fun s f1 a1 a2 hf1 ha2 => ?_, fun s f1 a1 a2 hf1 ha2 => ?_⟩
  · exact exec_mov_retires (movMode_zero s) (movMode_zero s) (movSource_of_names hi) (movDest_of_names hj)
  · exact exec_mov_retires (movMode_zero s) (movMode_one s) (movSource_of_names hi)
      (memWrite_of_isCell _ ha2)
  · exact exec_mov_retires (movMode_one s) (movMode_zero s) (memRead_of_isCell ha1) (movDest_of_names hj)
  · exact exec_mov_retires (movMode_one s) (movMode_one s) (memRead_of_isCell ha1)
      (memWrite_of_isCell _ ha2)
  · exact commit_of_error (bind_of_error (movMode_of_ne s h0 h1))
  · obtain ⟨m1, hm1⟩ := exists_movMode s hf1
    exact commit_of_error (bind_of_ok hm1 (bind_of_error (movMode_of_ne s h0 h1)))
  · exact exec_mov_of_source_error (movMode_zero s) hf2 (bind_of_error (regIndex_of_not_isReg s ha1))
  · exact exec_mov_of_source_error (movMode_one s) hf2 (memRead_of_not_isCell ha1)
  · exact exec_mov_of_dest_error hf1 (movMode_zero s) fun _ => bind_of_error (regIndex_of_not_isReg s ha2)
  · exact exec_mov_of_dest_error hf1 (movMode_one s) fun v => memWrite_of_not_isCell v ha2

/-! ## SWAP -/

section
variable {s t : State} {k1 k2 n1 n2 : Word}

theorem swapNumbers_of_inline (k1 k2 : Word) (h : s.params.swapOperands = .inline) :
    swapNumbers s k1 k2 = .ok (k1, k2, s) :=
  swapNumbers_ok.2 (.inl ⟨h, rfl, rfl, rfl⟩)

/-- Under `Stack` the two numbers are popped, whatever the operand cells hold (R141). -/
theorem swapNumbers_of_stack (k1 k2 : Word) (h : s.params.swapOperands = .stack) : swapNumbers s k1 k2 = popTwo s := by
  unfold swapNumbers
  rw [h]
  rfl

theorem swapNumbers_of_stack_cons {rest : List Word} (k1 k2 : Word) (h : s.params.swapOperands = .stack)
    (hws : s.ws = n1 :: n2 :: rest) : swapNumbers s k1 k2 = .ok (n1, n2, s.setWs rest) :=
  (swapNumbers_of_stack k1 k2 h).trans (popTwo_of_cons hws)

theorem exec_swap_of_names {i j : Fin 8} (hnum : swapNumbers s k1 k2 = .ok (n1, n2, t)) (hi : Names n1 i)
    (hj : Names n2 j) :
    exec (.swap k1 k2) s =
      .next (retire (.swap k1 k2) s (((t.setReg i (t.reg j)).setReg j (t.reg i)).advance 3)) :=
  commit_of_ok (bind_of_ok hnum (bind_of_ok (regIndex_of_names s hi) (bind_of_ok (regIndex_of_names s hj) rfl)))

theorem exec_swap_of_first_not_isReg (hnum : swapNumbers s k1 k2 = .ok (n1, n2, t)) (h1 : ¬ IsReg n1) :
    exec (.swap k1 k2) s = .next (takeFault (.illegalOperand s.pc n1) s) :=
  commit_of_error (bind_of_ok hnum (bind_of_error (regIndex_of_not_isReg s h1)))

theorem exec_swap_of_second_not_isReg (hnum : swapNumbers s k1 k2 = .ok (n1, n2, t)) (h1 : IsReg n1)
    (h2 : ¬ IsReg n2) : exec (.swap k1 k2) s = .next (takeFault (.illegalOperand s.pc n2) s) := by
  obtain ⟨i, hi⟩ := exists_names_of_isReg h1
  exact commit_of_error (bind_of_ok hnum (bind_of_ok (regIndex_of_names s hi)
    (bind_of_error (regIndex_of_not_isReg s h2))))

end

/-- Settles O14: under `Inline` the numbers are the operand cells. -/
theorem swapExchangesTwoRegisters : Obligations.SwapExchangesTwoRegisters :=
  ⟨fun _ _ => rfl, operandCellFaults le_rfl (by decide), operandCellFaults (by decide) le_rfl,
    fun _ k1 k2 _ _ hs => exec_swap_of_names (swapNumbers_of_inline k1 k2 hs),
    fun _ k1 k2 hs => exec_swap_of_first_not_isReg (swapNumbers_of_inline k1 k2 hs),
    fun _ k1 k2 hs => exec_swap_of_second_not_isReg (swapNumbers_of_inline k1 k2 hs)⟩

/-- Under `Stack` the fetch reads only the opcode cell of a `SWAP` (R141). -/
theorem fetch_swap_of_stack {s : State} (hs : s.params.swapOperands = .stack)
    (hopc : Function.Injective s.params.opcodeMap) (hpc : IsCell s.pc)
    (ho : readCell s.mem s.pc.toNat = s.params.opcodeMap .swap) : fetch s = .ok (.swap 0 0) := by
  have hnone : cellsRead s.params .swap = 0 := by
    unfold cellsRead
    rw [hs]
  rw [fetch_of_opcodeCell hopc hpc ho, hnone]
  rfl

/-- Settles O15: under `Stack` the numbers are the two popped values, and no operand cell is read. -/
theorem swapPopsItsOperandsUnderStack : Obligations.SwapPopsItsOperandsUnderStack :=
  ⟨fun _ k1 k2 _ _ _ _ _ hs hws => exec_swap_of_names (swapNumbers_of_stack_cons k1 k2 hs hws),
    fun _ k1 k2 hs hlt =>
      commit_of_error (bind_of_error ((swapNumbers_of_stack k1 k2 hs).trans (popTwo_of_lt hlt))),
    fun _ k1 k2 _ _ _ hs hws => exec_swap_of_first_not_isReg (swapNumbers_of_stack_cons k1 k2 hs hws),
    fun _ k1 k2 _ _ _ hs hws => exec_swap_of_second_not_isReg (swapNumbers_of_stack_cons k1 k2 hs hws),
    fun _ hs _ hopc hpc ho => ⟨0, 0, execOne_of_fetch_ok (fetch_swap_of_stack hs hopc hpc ho)⟩⟩

end Sys2Proof.Machine
end

section
/-! PROOFS. The arithmetic and comparison instructions (42_arithmetic R160 to R171): the range of `Arith`, the shapes
that several instructions share, and then each handler's lines in their order. -/

namespace Sys2Proof.Machine

open Sys2Proof.Claims

/-! ## Arith -/

section
variable {s : State} {v : Int}

/-- `Arith` answers under `Wrap`, and under `Fault` when the result is a cell value (R161). -/
theorem arith_of_wrap_or_inRange (h : s.params.arithOverflow = .wrap ∨ InRange v) :
    arith s v = .ok (BitVec.ofInt 32 v) :=
  arith_ok.2 ⟨h.imp_right decide_eq_true, rfl⟩

theorem arith_of_not_inRange (hfault : s.params.arithOverflow = .fault) (h : ¬ InRange v) :
    arith s v = .error (.arithmeticFault s.pc .overflow) :=
  arith_error.2 ⟨hfault, decide_eq_false h, rfl⟩

end

/-- The one absolute value of a cell that is not a cell value is that of `-2^31` (R170). -/
theorem inRange_natAbs_iff {a : Word} : InRange a.toInt.natAbs ↔ a.toInt ≠ -2147483648 := by
  have hw := word_toInt a
  simp only [InRange]
  omega

/-- The square root of a cell that is not negative is the floor root of its value (R169). -/
theorem isqrt_toNat_spec {a : Word} (h : 0 ≤ a.toInt) :
    (isqrt a.toNat : Int) * isqrt a.toNat ≤ a.toInt ∧
      a.toInt < ((isqrt a.toNat : Int) + 1) * (isqrt a.toNat + 1) := by
  have hvalue : a.toInt = a.toNat := by
    have hw := word_toInt a
    omega
  rw [hvalue]
  exact_mod_cast isqrt_spec a.isLt

/-! ## The operands and the result -/

section
variable {s : State} {a b : Word} {rest : List Word}

theorem pop_ws_of_lt_one (h : s.ws.length < 1) : pop .ws s = .error (.stackUnderflow s.pc .ws) :=
  pop_ws_of_nil (List.length_eq_zero_iff.1 (Nat.lt_one_iff.1 h))

theorem peek_ws_of_cons (hws : s.ws = a :: rest) : peek .ws s 0 = .ok a :=
  peek_ok.2 (by rw [State.stack_ws, hws, List.getElem?_cons_zero])

/-- One popped operand leaves room for the result (00_scope R16). -/
theorem push_ws_after_pop (r : Word) (hws : s.ws = a :: rest) (hcap : s.ws.length ≤ Config.wsCap) :
    push .ws (s.setWs rest) r = .ok (s.setWs (r :: rest)) := by
  rw [hws] at hcap
  exact push_ws_of_lt r hcap

/-- Two popped operands leave room for the result (00_scope R16). -/
theorem push_ws_after_popTwo (r : Word) (hws : s.ws = a :: b :: rest) (hcap : s.ws.length ≤ Config.wsCap) :
    push .ws (s.setWs rest) r = .ok (s.setWs (r :: rest)) := by
  rw [hws] at hcap
  exact push_ws_of_lt r (Nat.lt_of_succ_lt hcap)

end

/-! ## The shared shapes -/

/-- What the shape of `ADD` and `SUB` does (R162, R163): both operands are popped before the result is narrowed, and a
fault discards the pops. -/
theorem pushesArith_of_binaryArith {i : Instr} {op : Word} {f : Int → Int → Int} (hcells : encode i = [op])
    (hexec : ∀ s, exec i s = commit i s (binaryArith f s)) : PushesArith i op f := by
  refine ⟨hcells, fun s hlt => ?_, fun s a b rest hws hcap hfits => ?_, fun s a b rest hws hfault hout => ?_⟩ <;>
    rw [hexec]
  · exact commit_of_error (bind_of_error (popTwo_of_lt hlt))
  · exact commit_of_ok (bind_of_ok (popTwo_of_cons hws) (bind_of_ok (arith_of_wrap_or_inRange hfits)
      (bind_of_ok (push_ws_after_popTwo _ hws hcap) rfl)))
  · exact commit_of_error (bind_of_ok (popTwo_of_cons hws) (bind_of_error (arith_of_not_inRange hfault hout)))

/-- What the shape of the comparisons does (R164 to R166): 0 stands for true. -/
theorem compares_of_comparison {i : Instr} {op : Word} {c : Int → Int → Prop} [∀ a b, Decidable (c a b)]
    (hcells : encode i = [op])
    (hexec : ∀ s, exec i s = commit i s (comparison (fun a b => decide (c a b)) s)) : Compares i op c := by
  have retires : ∀ (s : State) a b rest, s.ws = a :: b :: rest → s.ws.length ≤ Config.wsCap →
      exec i s = .next (retire i s
        { s with ws := invertedBool (decide (c a.toInt b.toInt)) :: rest, pc := s.pc + 1 }) := by
    intro s a b rest hws hcap
    rw [hexec]
    exact commit_of_ok (bind_of_ok (popTwo_of_cons hws) (bind_of_ok (push_ws_after_popTwo _ hws hcap) rfl))
  refine ⟨hcells, fun s hlt => ?_, fun s a b rest hws hcap hc => ?_, fun s a b rest hws hcap hc => ?_⟩
  · rw [hexec]
    exact commit_of_error (bind_of_error (popTwo_of_lt hlt))
  · rw [retires s a b rest hws hcap, decide_eq_true hc]
    rfl
  · rw [retires s a b rest hws hcap, decide_eq_false hc]
    rfl

/-- What the shape of `INC` and `DCR` does (R167, R168): the top is replaced in place, so no room is needed. -/
theorem changesTop_of_changeTop {i : Instr} {op : Word} {f : Int → Int} (hcells : encode i = [op])
    (hexec : ∀ s, exec i s = commit i s (changeTop f s)) : ChangesTop i op f := by
  refine ⟨hcells, fun s hlt => ?_, fun s v rest hws hfits => ?_, fun s v rest hws hfault hout => ?_⟩ <;> rw [hexec]
  · exact commit_of_error (bind_of_error (peek_ws_of_le (Nat.le_of_lt_succ hlt)))
  · exact commit_of_ok (bind_of_ok (peek_ws_of_cons hws) (bind_of_ok (arith_of_wrap_or_inRange hfits)
      (bind_of_ok (setTop_ok.2 ⟨v, rest, hws, rfl⟩) rfl)))
  · exact commit_of_error (bind_of_ok (peek_ws_of_cons hws) (bind_of_error (arith_of_not_inRange hfault hout)))

/-! ## ADD, SUB and the comparisons -/

/-- Settles O17: `ADD` has the shape, with the sum. -/
theorem addPushesTheSum : Obligations.AddPushesTheSum := pushesArith_of_binaryArith rfl fun _ => rfl

/-- Settles O18: `SUB` has the shape, with the top minus the entry below it. -/
theorem subPushesTopMinusSecond : Obligations.SubPushesTopMinusSecond := pushesArith_of_binaryArith rfl fun _ => rfl

/-- Settles O19: the three comparisons have one shape, and differ in the relation. -/
theorem comparisonsPushInvertedBooleans : Obligations.ComparisonsPushInvertedBooleans :=
  ⟨compares_of_comparison rfl fun _ => rfl, compares_of_comparison rfl fun _ => rfl,
    compares_of_comparison rfl fun _ => rfl⟩

/-! ## INC, DCR, SQRT, ABS -/

/-- Settles O20: `INC` and `DCR` have one shape, and differ in the change. -/
theorem incAndDcrChangeTheTop : Obligations.IncAndDcrChangeTheTop :=
  ⟨changesTop_of_changeTop rfl fun _ => rfl, changesTop_of_changeTop rfl fun _ => rfl⟩

/-- Settles O21: the sign is checked after the pop, and the root that the bits give is the floor root. -/
theorem sqrtPushesTheFloorRoot : Obligations.SqrtPushesTheFloorRoot := by
  refine ⟨rfl, fun s hlt => ?_, fun s a rest hws hcap ha => ?_, fun s a rest hws ha => ?_⟩
  · exact commit_of_error (bind_of_error (pop_ws_of_lt_one hlt))
  · obtain ⟨hle, hlt⟩ := isqrt_toNat_spec ha
    exact ⟨isqrt a.toNat, hle, hlt, commit_of_ok (bind_of_ok (pop_ws_of_cons hws)
      ((if_neg ha.not_gt).trans (bind_of_ok (push_ws_after_pop _ hws hcap) rfl)))⟩
  · exact commit_of_error (bind_of_ok (pop_ws_of_cons hws) (if_pos ha))

/-- Settles O22: the absolute value is a cell value but for `-2^31`. -/
theorem absPushesTheAbsoluteValue : Obligations.AbsPushesTheAbsoluteValue := by
  refine ⟨rfl, fun s hlt => ?_, fun s a rest hws hcap hfits => ?_, fun s a rest hws hfault ha => ?_⟩
  · exact commit_of_error (bind_of_error (pop_ws_of_lt_one hlt))
  · have hresult := arith_of_wrap_or_inRange (hfits.imp_right inRange_natAbs_iff.2)
    exact commit_of_ok (bind_of_ok (pop_ws_of_cons hws) (bind_of_ok hresult
      (bind_of_ok (push_ws_after_pop _ hws hcap) rfl)))
  · have hout : ¬ InRange a.toInt.natAbs := fun h => inRange_natAbs_iff.1 h ha
    exact commit_of_error (bind_of_ok (pop_ws_of_cons hws) (bind_of_error (arith_of_not_inRange hfault hout)))

/-! ## POW -/

/-- Settles O23: the sign of the exponent is checked after both pops, and repeated squaring gives `Arith` of the exact
power. -/
theorem powPushesTheExactPower : Obligations.PowPushesTheExactPower := by
  refine ⟨rfl, fun s hlt => ?_, fun s a b rest hws hcap hb hfits => ?_, fun s a b rest hws hb => ?_,
    fun s a b rest hws hb hfault hout => ?_⟩
  · exact commit_of_error (bind_of_error (popTwo_of_lt hlt))
  · have hresult := (powArith_eq s a b).trans (arith_of_wrap_or_inRange hfits)
    exact commit_of_ok (bind_of_ok (popTwo_of_cons hws) ((if_neg hb.not_gt).trans
      (bind_of_ok hresult (bind_of_ok (push_ws_after_popTwo _ hws hcap) rfl))))
  · exact commit_of_error (bind_of_ok (popTwo_of_cons hws) (if_pos hb))
  · have hresult := (powArith_eq s a b).trans (arith_of_not_inRange hfault hout)
    exact commit_of_error (bind_of_ok (popTwo_of_cons hws) ((if_neg hb.not_gt).trans (bind_of_error hresult)))

end Sys2Proof.Machine
end

section
/-! PROOFS. The control transfer instructions (43_control_transfer R190 to R205): the jump that three of them share, the
pushes to the return stack, and then each handler's lines in their order. -/

namespace Sys2Proof.Machine

open Sys2Proof.Claims

/-! ## The shared jump and the return stack -/

section
variable {s : State} {v target : Word} {rest : List Word}

/-- The jump takes any target (R190). -/
theorem jumpToTop_of_cons (hws : s.ws = target :: rest) : jumpToTop s = .ok ((s.setWs rest).setPc target) :=
  bind_of_ok (pop_ws_of_cons hws) rfl

theorem jumpToTop_of_nil (hws : s.ws = []) : jumpToTop s = .error (.stackUnderflow s.pc .ws) :=
  bind_of_error (pop_ws_of_nil hws)

theorem push_rs_of_lt (v : Word) (hroom : s.rs.length < Config.rsCap) : push .rs s v = .ok (s.setRs (v :: s.rs)) :=
  push_ok.2 ⟨hroom, rfl⟩

theorem push_rs_of_full (v : Word) (hfull : s.rs.length = Config.rsCap) :
    push .rs s v = .error (.stackOverflow s.pc .rs) :=
  push_error.2 ⟨hfull.ge, rfl⟩

end

/-! ## HALT -/

theorem exec_halt (s : State) : exec .halt s = .next (retire .halt s (haltEffect false s)) := commit_of_ok rfl

/-- Settles O24: retiring adds only the trace record to what `HaltEffect` leaves. -/
theorem haltUnloadsTheProgram : Obligations.HaltUnloadsTheProgram :=
  ⟨rfl, fun s => ⟨_, exec_halt s, rfl, rfl, rfl, readCell_zeroBelow s.mem Config.displayBase, rfl, rfl, rfl, rfl, rfl,
    rfl, rfl, rfl, rfl, rfl, rfl⟩⟩

/-! ## GOTO -/

/-- The working stack with the return address on it: the state between the two pushes of `GOTO` (R194). -/
def State.withReturn (s : State) : State := s.setWs ((s.pc + 1) :: s.ws)

@[simp] theorem State.withReturn_ws (s : State) : s.withReturn.ws = (s.pc + 1) :: s.ws := rfl

/-- With room for the return address, `GOTO` goes on to its `OVR` and its `JMP` (R194). -/
theorem exec_goto_of_lt {s : State} (hroom : s.ws.length < Config.wsCap) :
    exec .goto s =
      commit .goto s (peek .ws s.withReturn 1 >>= fun target => push .ws s.withReturn target >>= jumpToTop) :=
  congrArg (commit .goto s) (bind_of_ok (push_ws_of_lt (s.pc + 1) hroom) rfl)

/-- Settles O25: the return address is pushed before the entry below it, the target, is read; what is read is pushed
above both, and the jump pops it. -/
theorem gotoCallsWithReturnAddress : Obligations.GotoCallsWithReturnAddress := by
  refine ⟨rfl, fun s target rest hws hroom => ?_, fun s hdepth => ?_, fun s hlt => ?_⟩
  · have htarget : peek .ws s.withReturn 1 = .ok target := peek_ok.2 (by simp [hws])
    have hpush := push_ws_of_lt (s := s.withReturn) target hroom
    have hjump := jumpToTop_of_cons (s := s.withReturn.setWs (target :: s.withReturn.ws)) rfl
    rw [exec_goto_of_lt (Nat.lt_of_succ_lt hroom), ← hws]
    exact commit_of_ok (bind_of_ok htarget (bind_of_ok hpush hjump))
  · rcases hdepth with hfull | hlast
    · exact commit_of_error (bind_of_error (push_ws_of_full _ hfull))
    · have hfull : s.withReturn.ws.length = Config.wsCap := hlast
      have htwo : 1 < s.withReturn.ws.length := hfull ▸ by decide
      rw [exec_goto_of_lt (Nat.lt_of_succ_le hlast.le)]
      exact commit_of_error (bind_of_ok (peek_ws_of_lt htwo) (bind_of_error (push_ws_of_full _ hfull)))
  · rw [exec_goto_of_lt (hlt.trans (by decide))]
    exact commit_of_error (bind_of_error (peek_ws_of_le (s := s.withReturn) hlt))

/-! ## JMP and JNZ -/

/-- Settles O26: `JMP` is the shared jump. -/
theorem jmpPopsItsTarget : Obligations.JmpPopsItsTarget :=
  ⟨rfl, fun _ hlt => commit_of_error (bind_of_error (pop_ws_of_lt_one hlt)),
    fun _ _ _ hws => commit_of_ok (jumpToTop_of_cons hws)⟩

/-- Settles O27: the condition is popped first, and the shared jump follows only when it is not 0. -/
theorem jnzBranchesOnNonzero : Obligations.JnzBranchesOnNonzero := by
  refine ⟨rfl, fun s hlt => ?_, fun s c target rest hws hc => ?_, fun s c hws hc => ?_, fun s rest hws => ?_⟩
  · exact commit_of_error (bind_of_error (pop_ws_of_lt_one hlt))
  · have hjump := jumpToTop_of_cons (s := s.setWs (target :: rest)) rfl
    exact commit_of_ok (bind_of_ok (pop_ws_of_cons hws) ((if_pos hc).trans hjump))
  · exact commit_of_error (bind_of_ok (pop_ws_of_cons hws) ((if_pos hc).trans (jumpToTop_of_nil rfl)))
  · exact commit_of_ok (bind_of_ok (pop_ws_of_cons hws) (if_neg (not_not_intro rfl)))

/-! ## RPC and RET -/

/-- Settles O28: the address is that of the state before `pc` moves on. -/
theorem rpcPushesItsAddress : Obligations.RpcPushesItsAddress :=
  ⟨rfl, fun _ hroom => commit_of_ok (bind_of_ok (push_ws_of_lt _ hroom) rfl),
    fun _ hfull => commit_of_error (bind_of_error (push_ws_of_full _ hfull))⟩

/-- Settles O29: the pop from WS comes before the push to RS, whose fault discards it. -/
theorem retMovesToTheReturnStack : Obligations.RetMovesToTheReturnStack := by
  refine ⟨rfl, fun s hlt => ?_, fun s v rest hws hroom => ?_, fun s v rest hws hfull => ?_⟩
  · exact commit_of_error (bind_of_error (pop_ws_of_lt_one hlt))
  · have hpush := push_rs_of_lt (s := s.setWs rest) v hroom
    exact commit_of_ok (bind_of_ok (pop_ws_of_cons hws) (bind_of_ok hpush rfl))
  · have hpush := push_rs_of_full (s := s.setWs rest) v hfull
    exact commit_of_error (bind_of_ok (pop_ws_of_cons hws) (bind_of_error hpush))

end Sys2Proof.Machine
end

section
/-! PROOFS. The device I/O instructions (44_device_io R210 to R213): the check of a port operand, the stream that a port
selects and the value that a port keeps, and then each handler's lines in their order. -/

namespace Sys2Proof.Machine

open Sys2Proof.Claims

/-! ## Port operands -/

section
variable {s : State} {p v : Word} {rest : List Word}

theorem portIndex_of_isPort (s : State) (h : IsPort p) : portIndex s p = .ok p.toNat := by
  have hw := word_toInt p
  exact portIndex_ok.2 ⟨by omega, rfl⟩

theorem portIndex_of_not_isPort (s : State) (h : ¬ IsPort p) : portIndex s p = .error (.illegalOperand s.pc p) :=
  portIndex_error.2 ⟨h, rfl⟩

/-! ## DVO -/

/-- Only the ports 24 and 25 have a console stream (R210). -/
theorem consoleStream_of_ne {n : Nat} (h24 : n ≠ 24) (h25 : n ≠ 25) : consoleStream n = none :=
  Option.eq_none_iff_forall_ne_some.2 fun _ hk => (consoleStream_eq_some hk).elim h24 h25

theorem exec_dvo_of_stream {k : Stream} (hp : IsPort p) (hk : consoleStream p.toNat = some k) :
    exec (.dvo p) s = .next (retire (.dvo p) s
      { s with console := s.console ++ [(k, (readCell s.dev p.toNat).setWidth 8)], pc := s.pc + 2 }) := by
  refine commit_of_ok (bind_of_ok (portIndex_of_isPort s hp) ?_)
  rw [hk]
  rfl

theorem exec_dvo_of_no_stream (hp : IsPort p) (hk : consoleStream p.toNat = none) :
    exec (.dvo p) s = .next (retire (.dvo p) s { s with pc := s.pc + 2 }) := by
  refine commit_of_ok (bind_of_ok (portIndex_of_isPort s hp) ?_)
  rw [hk]
  rfl

/-! ## DVW -/

theorem portValue_of_cell (v : Word) (h : s.params.portStore = .cell) : portValue s v = v := by
  rw [portValue, h]

/-- `zext_8` is the value modulo 256 (10_state R41). -/
theorem portValue_of_byte (v : Word) (h : s.params.portStore = .byte) :
    portValue s v = BitVec.ofNat 32 (v.toNat % 256) := by
  rw [portValue, h]
  apply BitVec.eq_of_toNat_eq
  simp only [BitVec.toNat_setWidth, BitVec.toNat_ofNat, Nat.reducePow]

/-- With a value to pop, `DVW` writes what the port keeps of it, and no other port (R212). -/
theorem exec_dvw_of_cons (hp : IsPort p) (hws : s.ws = v :: rest) (hdev : Store.canonical s.dev) :
    ∃ d, ReadsWith d s.dev p.toNat (portValue s v) ∧
      exec (.dvw p) s = .next (retire (.dvw p) s { s with dev := d, ws := rest, pc := s.pc + 2 }) :=
  ⟨writeCell s.dev p.toNat (portValue s v), fun q => readCell_writeCell hdev p.toNat q (portValue s v),
    commit_of_ok (bind_of_ok (portIndex_of_isPort s hp) (bind_of_ok (pop_ws_of_cons hws) rfl))⟩

end

/-- Settles O30: once the port is accepted, the stream that it selects decides what is emitted. -/
theorem dvoEmitsTheLowByte : Obligations.DvoEmitsTheLowByte := by
  refine ⟨fun _ => rfl, operandCellFaults le_rfl le_rfl, fun s => ?_, fun s => ?_, fun s p hp h24 h25 => ?_,
    fun s p hp => ?_⟩
  · exact exec_dvo_of_stream (by decide) rfl
  · exact exec_dvo_of_stream (by decide) rfl
  · have hnone : consoleStream p.toNat = none :=
      consoleStream_of_ne (fun h => h24 (BitVec.eq_of_toNat_eq h)) fun h => h25 (BitVec.eq_of_toNat_eq h)
    exact exec_dvo_of_no_stream hp hnone
  · exact commit_of_error (bind_of_error (portIndex_of_not_isPort s hp))

/-- Settles O31: the port is checked before the pop, and `PORT_STORE` decides what the port keeps of the value. -/
theorem dvwWritesThePort : Obligations.DvwWritesThePort := by
  refine ⟨fun _ => rfl, operandCellFaults le_rfl le_rfl, fun s p v rest hp hws hdev hcell => ?_,
    fun s p v rest hp hws hdev hbyte => ?_, fun s p hp => ?_, fun s p hp hempty => ?_⟩
  · rw [← portValue_of_cell v hcell]
    exact exec_dvw_of_cons hp hws hdev
  · rw [← portValue_of_byte v hbyte]
    exact exec_dvw_of_cons hp hws hdev
  · exact commit_of_error (bind_of_error (portIndex_of_not_isPort s hp))
  · exact commit_of_error (bind_of_ok (portIndex_of_isPort s hp) (bind_of_error (pop_ws_of_nil hempty)))

end Sys2Proof.Machine
end

section
/-! PROOFS. The device bus (45_device_bus R220 to R234): what one frame does to the ports and to memory, a scan as the
frames of the ports that are triggered when it starts, and what the scan leaves of ports and memory. -/

namespace Sys2Proof.Machine

open Sys2Proof.Claims

/-- The ports that a scan dispatches: those of the display class that hold the trigger value (R221, R223). -/
abbrev DisplayTriggered (s : State) (p : Nat) : Prop := 16 ≤ p ∧ p ≤ 31 ∧ readCell s.dev p = 1

/-! ## One frame -/

section
variable {s : State} (font : Font) (p : Nat)

theorem displayFrame_params (s : State) : (displayFrame font p s).params = s.params := by
  rw [displayFrame_shape]

theorem displayFrame_mem (s : State) :
    (displayFrame font p s).mem = (scanSlots font s.params displaySlots Config.displayBase s.mem []).1 := by
  unfold displayFrame
  dsimp only
  split <;> rfl

theorem displayFrame_dev_of_kept (h : s.params.displayClearsPort = false) : (displayFrame font p s).dev = s.dev := by
  rw [displayFrame, h]
  rfl

theorem displayFrame_dev_of_cleared (h : s.params.displayClearsPort = true) :
    (displayFrame font p s).dev = writeCell s.dev p 0 := by
  rw [displayFrame, h]
  rfl

theorem displayFrame_dev_canonical (hdev : Store.canonical s.dev) : Store.canonical (displayFrame font p s).dev := by
  cases hclears : s.params.displayClearsPort with
  | false => exact displayFrame_dev_of_kept font p hclears ▸ hdev
  | true => exact displayFrame_dev_of_cleared font p hclears ▸ writeCell_canonical hdev p 0

/-- The ports after a frame, under both settings of `DISPLAY_CLEARS_PORT` (R229). -/
theorem readCell_displayFrame_dev (hdev : Store.canonical s.dev) (q : Nat) :
    readCell (displayFrame font p s).dev q =
      if s.params.displayClearsPort = true ∧ q = p then 0 else readCell s.dev q := by
  cases hclears : s.params.displayClearsPort with
  | false => simp [displayFrame_dev_of_kept font p hclears]
  | true => simp [displayFrame_dev_of_cleared font p hclears, readCell_writeCell hdev]

theorem readCell_displayFrame_dev_of_ne (hdev : Store.canonical s.dev) {q : Nat} (hne : q ≠ p) :
    readCell (displayFrame font p s).dev q = readCell s.dev q := by
  rw [readCell_displayFrame_dev font p hdev, if_neg fun h => hne h.2]

theorem writeBack_canonical {m : Memory} (h : Store.canonical m) (a : Nat) : Store.canonical (writeBack m a) :=
  writeCell_canonical (writeCell_canonical h _ _) _ _

/-- The loop of a frame writes no cell below the slot where it starts. -/
theorem readCell_scanSlots_of_lt (c : Params) (n : Nat) {a b : Nat} {m : Memory} (pix : Store 12)
    (hm : Store.canonical m) (hb : b < a) : readCell (scanSlots font c n a m pix).1 b = readCell m b := by
  induction n generalizing a m pix with
  | zero => rfl
  | succ n ih =>
    have hnext (pix' : Store 12) :
        readCell (scanSlots font c n (a + Config.recordCells) (writeBack m a) pix').1 b = readCell m b := by
      rw [ih pix' (writeBack_canonical hm a) (hb.trans_le (Nat.le_add_right _ _)),
        readCell_writeBack hm, if_neg (by omega)]
    unfold scanSlots
    split
    · rfl
    · split
      · exact hnext _
      · exact hnext _
      · rfl

theorem displayFrame_mem_wf (hm : Memory.wf s.mem) : Memory.wf (displayFrame font p s).mem := by
  rw [displayFrame_mem]
  exact Memory.wf_scanSlots font _ _ _ _ hm (by decide)

theorem readCell_displayFrame_mem_of_lt (hm : Memory.wf s.mem) {a : Nat} (ha : a < Config.displayBase) :
    readCell (displayFrame font p s).mem a = readCell s.mem a := by
  rw [displayFrame_mem]
  exact readCell_scanSlots_of_lt font _ _ _ hm.1 ha

/-! ## A sequence of frames -/

/-- The frames of the ports `ps`, in their order. -/
def frames (ps : List Nat) (s : State) : State := ps.foldl (fun t p => displayFrame font p t) s

theorem frames_cons (ps : List Nat) (s : State) :
    frames font (p :: ps) s = frames font ps (displayFrame font p s) := rfl

/-- After the frames of `ps`, under `DISPLAY_CLEARS_PORT` exactly the ports of `ps` are cleared. -/
theorem readCell_frames_dev (hdev : Store.canonical s.dev) (ps : List Nat) (q : Nat) :
    readCell (frames font ps s).dev q =
      if s.params.displayClearsPort = true ∧ q ∈ ps then 0 else readCell s.dev q := by
  induction ps generalizing s with
  | nil => simp [frames]
  | cons p ps ih =>
    rw [frames_cons, ih (displayFrame_dev_canonical font p hdev), displayFrame_params,
      readCell_displayFrame_dev font p hdev]
    by_cases hclears : s.params.displayClearsPort = true
    · by_cases hq : q = p <;> simp [hclears, hq]
    · simp [hclears]

theorem readCell_frames_mem_of_lt (hm : Memory.wf s.mem) (ps : List Nat) {a : Nat} (ha : a < Config.displayBase) :
    readCell (frames font ps s).mem a = readCell s.mem a := by
  induction ps generalizing s with
  | nil => rfl
  | cons p ps ih =>
    calc readCell (frames font ps (displayFrame font p s)).mem a
      _ = readCell (displayFrame font p s).mem a := ih (displayFrame_mem_wf font p hm)
      _ = readCell s.mem a := readCell_displayFrame_mem_of_lt font p hm ha

/-! ## The scan -/

/-- What the loop of a scan does at a port, with the class read as a range of ports. -/
theorem scanPort_eq {p : Nat} (hp : p < 256) (s : State) :
    scanPort font s p = if DisplayTriggered s p then displayFrame font p s else s := by
  have htest : (triggered s p && portClass p == Config.displayClass) = true ↔ DisplayTriggered s p := by
    simp only [triggered, portRead, Config.triggerValue, Bool.and_eq_true, beq_iff_eq, portClass_display hp]
    tauto
  exact if_congr htest rfl rfl

/-- The loop over different ports dispatches those that are triggered when it starts: a frame changes no port but its
own, which the loop has then passed (R229, R233). -/
theorem foldl_scanPort {l : List Nat} (hl : l.Nodup) (hports : ∀ p ∈ l, p < 256) (hdev : Store.canonical s.dev) :
    l.foldl (scanPort font) s = frames font (l.filter fun p => decide (DisplayTriggered s p)) s := by
  induction l generalizing s with
  | nil => rfl
  | cons p l ih =>
    obtain ⟨hp, hl⟩ := List.nodup_cons.1 hl
    obtain ⟨hlt, hports⟩ := List.forall_mem_cons.1 hports
    rw [List.foldl_cons, scanPort_eq font hlt]
    by_cases hdisp : DisplayTriggered s p
    · have hlater : l.filter (fun q => decide (DisplayTriggered (displayFrame font p s) q)) =
          l.filter fun q => decide (DisplayTriggered s q) := by
        refine List.filter_congr fun q hq => ?_
        have hne : q ≠ p := fun e => hp (e ▸ hq)
        simp only [DisplayTriggered, readCell_displayFrame_dev_of_ne font p hdev hne]
      rw [if_pos hdisp, ih hl hports (displayFrame_dev_canonical font p hdev), hlater,
        List.filter_cons_of_pos (by simpa only [decide_eq_true_eq] using hdisp), frames_cons]
    · rw [if_neg hdisp, ih hl hports hdev, List.filter_cons_of_neg (by simpa only [decide_eq_true_eq] using hdisp)]

/-- A scan is the frames of the ports that are triggered when it starts, in ascending order (R226, R228). -/
theorem scan_eq_frames (hdev : Store.canonical s.dev) :
    scan font s = frames font ((List.range 256).filter fun p => decide (DisplayTriggered s p)) s :=
  foldl_scanPort font List.nodup_range (fun _ hp => List.mem_range.1 hp) hdev

theorem readCell_scan_dev (hdev : Store.canonical s.dev) (q : Nat) :
    readCell (scan font s).dev q =
      if s.params.displayClearsPort = true ∧ DisplayTriggered s q then 0 else readCell s.dev q := by
  have hmem : q ∈ (List.range 256).filter (fun p => decide (DisplayTriggered s p)) ↔ DisplayTriggered s q := by
    simp only [List.mem_filter, List.mem_range, decide_eq_true_eq, and_iff_right_iff_imp]
    rintro ⟨-, hle, -⟩
    omega
  rw [scan_eq_frames font hdev, readCell_frames_dev font hdev]
  exact if_congr (and_congr_right fun _ => hmem) rfl rfl

theorem readCell_scan_mem_of_lt (hdev : Store.canonical s.dev) (hm : Memory.wf s.mem) {a : Nat}
    (ha : a < Config.displayBase) : readCell (scan font s).mem a = readCell s.mem a := by
  rw [scan_eq_frames font hdev, readCell_frames_mem_of_lt font hm _ ha]

/-- A command that changed memory, pixels and ports only changes, when it ends, only the record of the host besides. -/
theorem setHost_shape {t : State} (h : t = { s with mem := t.mem, pix := t.pix, dev := t.dev }) (cs : List Command)
    (r : Reply) :
    t.setHost cs r =
      { s with mem := (t.setHost cs r).mem, pix := (t.setHost cs r).pix, dev := (t.setHost cs r).dev,
               pending := cs, reply := r } :=
  congrArg (State.setHost · cs r) h

end

/-! ## The obligations -/

/-- Settles O53: the loop passes every port and leaves the state as it is. -/
theorem untriggeredScanChangesNothing : Obligations.UntriggeredScanChangesNothing := by
  intro font s hnone
  refine List.foldlRecOn (motive := (· = s)) _ _ rfl fun t ht p hp => ?_
  have hidle : ¬ DisplayTriggered s p := fun ⟨hge, hle, hone⟩ => hnone p hge hle hone
  rw [ht, scanPort_eq font (List.mem_range.1 hp), if_neg hidle]

/-- Settles O54: the fold of the loop is the fold over the ports that are triggered at the start. -/
theorem scanDispatchesTriggeredPortsInOrder : Obligations.ScanDispatchesTriggeredPortsInOrder :=
  fun font _ hdev => scan_eq_frames font hdev

/-- Settles O55: the step is the scan, whose ports and low memory are those of its frames. -/
theorem scanChangesOnlyDisplayState : Obligations.ScanChangesOnlyDisplayState := by
  refine ⟨fun s cs hp hm hdev =>
      ⟨(scan Config.font s).setHost cs .none, step_of_pending hp, ?_, fun a ha => ?_, fun p => ?_⟩,
    fun font p s => ⟨displayFrame_shape font p s, displayFrame_dev_of_kept font p, fun hclears hdev q => ?_⟩⟩
  · exact setHost_shape (scan_shape Config.font s) cs .none
  · rw [State.setHost_mem, readCell_scan_mem_of_lt Config.font hdev hm ha]
  · rw [State.setHost_dev, readCell_scan_dev Config.font hdev p]
  · rw [readCell_displayFrame_dev font p hdev, hclears]
    simp only [true_and]

end Sys2Proof.Machine
end

section
/-! PROOFS. The rasterizer and the text convenience (46_display_device R247 to R259): every drawing operation paints a set of
pixels in one colour, and what it paints is read off the operations it is made of. -/

namespace Sys2Proof.Machine

open Sys2Proof.Claims

/-! ## Painting -/

/-- The drawing operation `f` gives the pixels of `S` the colour `color`, keeps every other pixel, and keeps the canonical
form. -/
structure Paints (f : Store 12 → Store 12) (color : Colour) (S : Nat → Prop) : Prop where
  canonical {p : Store 12} (hp : Store.canonical p) : Store.canonical (f p)
  painted {p : Store 12} {k : Nat} (hp : Store.canonical p) (hk : S k) : readCell (f p) k = color
  kept {p : Store 12} {k : Nat} (hp : Store.canonical p) (hk : ¬ S k) : readCell (f p) k = readCell p k

section
variable {f g : Store 12 → Store 12} {color : Colour} {S T : Nat → Prop}

theorem Paints.nothing (color : Colour) : Paints (fun p => p) color fun _ => False :=
  ⟨id, fun _ hk => hk.elim, fun _ _ => rfl⟩

theorem Paints.congr (hf : Paints f color S) (h : ∀ k, S k ↔ T k) : Paints f color T :=
  ⟨hf.canonical, fun hp hk => hf.painted hp ((h _).2 hk), fun hp hk => hf.kept hp fun hS => hk ((h _).1 hS)⟩

/-- Two operations in the same colour paint what one of them paints. -/
theorem Paints.comp (hf : Paints f color S) (hg : Paints g color T) :
    Paints (fun p => g (f p)) color fun k => S k ∨ T k where
  canonical hp := hg.canonical (hf.canonical hp)
  painted {p k} hp hk := by
    by_cases hT : T k
    · exact hg.painted (hf.canonical hp) hT
    · exact (hg.kept (hf.canonical hp) hT).trans (hf.painted hp (hk.resolve_right hT))
  kept hp hk := by
    obtain ⟨hS, hT⟩ := not_or.1 hk
    exact (hg.kept (hf.canonical hp) hT).trans (hf.kept hp hS)

theorem Paints.when (hf : Paints f color S) (b : Bool) :
    Paints (fun p => if b then f p else p) color fun k => b = true ∧ S k := by
  cases b with
  | false => exact (Paints.nothing color).congr fun _ => by simp
  | true => exact hf.congr fun _ => by simp

/-- A loop of operations in one colour paints what some turn of it paints. -/
theorem Paints.foldl {β : Type} {f : Store 12 → β → Store 12} {S : β → Nat → Prop}
    (hf : ∀ b, Paints (fun p => f p b) color (S b)) (l : List β) :
    Paints (fun p => l.foldl f p) color fun k => ∃ b ∈ l, S b k := by
  induction l with
  | nil => exact (Paints.nothing color).congr fun _ => by simp
  | cons b l ih => exact ((hf b).comp ih).congr fun _ => by simp

end

/-! ## The rasterizer -/

theorem putPixel_paints (mode : RasterMode) (x y scale i j : Int) (color : Colour) :
    Paints (putPixel mode x y scale i j color) color fun k => pixelIndex mode x y scale i j = some k := by
  unfold putPixel
  cases pixelIndex mode x y scale i j with
  | none => exact (Paints.nothing color).congr fun _ => by simp
  | some n =>
    exact ⟨fun hp => writeCell_canonical hp n color, fun hp hk => by simp_all [readCell_writeCell hp],
      fun hp hk => by rw [readCell_writeCell hp, if_neg fun e => hk (congrArg some e.symm)]⟩

theorem rasterizeRow_paints (font : Font) (mode : RasterMode) (glyph : Glyph) (x y : Int) (scale : Nat) (color : Colour)
    (i : Nat) :
    Paints (rasterizeRow font mode glyph x y scale color i) color fun k =>
      ∃ j ∈ List.range (Config.glyphW * scale),
        fontBit font glyph scale i j = true ∧ pixelIndex mode x y scale i j = some k :=
  Paints.foldl (fun j : Nat => (putPixel_paints mode x y scale i j color).when (fontBit font glyph scale i j)) _

section
variable {x y scale i j : Int} {k : Nat}

/-- The index formula of `Compat`, solved for the pixel (R248, R251). -/
theorem pixelIndex_compat :
    pixelIndex .compat x y scale i j = some k ↔
      (k : Int) = (x * scale + i) * 800 + (y * scale + j) ∧ k < 480000 := by
  simp only [pixelIndex, Option.ite_none_right_eq_some, Option.some.injEq]
  simp only [Config.pixW, Config.pixH]
  omega

/-- The index formula of `RowMajor`, solved for the pixel (R249, R251). -/
theorem pixelIndex_rowMajor :
    pixelIndex .rowMajor x y scale i j = some k ↔
      0 ≤ y * scale + i ∧ y * scale + i < 600 ∧ 0 ≤ x * scale + j ∧ x * scale + j < 800 ∧
        (k : Int) = (y * scale + i) * 800 + (x * scale + j) := by
  simp only [pixelIndex, Option.ite_none_right_eq_some, Option.some.injEq]
  simp only [Config.pixW, Config.pixH]
  omega

end

/-- A glyph covers the pixels that its set font bits put (R247). -/
theorem covers_iff {font : Font} {mode : RasterMode} {glyph : Glyph} {x y scale : Int} {k : Nat} :
    Covers font mode glyph x y scale k ↔
      ∃ i j : Nat, (i : Int) < 5 * scale ∧ (j : Int) < 5 * scale ∧ fontBit font glyph scale.toNat i j = true ∧
        pixelIndex mode x y scale i j = some k := by
  cases mode with
  | compat => simp only [Covers, fontBit, pixelIndex_compat]
  | rowMajor => simp only [Covers, fontBit, pixelIndex_rowMajor]

/-- `Rasterize` paints what the glyph covers; at a scale that is not positive the glyph covers nothing (R247, R254). -/
theorem rasterize_paints (font : Font) (mode : RasterMode) (glyph : Glyph) (x y scale : Int) (color : Colour) :
    Paints (rasterize font mode glyph x y scale color) color (Covers font mode glyph x y scale) := by
  unfold rasterize
  by_cases hscale : scale ≤ 0
  · simp only [if_pos hscale]
    refine (Paints.nothing color).congr fun k => iff_of_false not_false ?_
    rintro ⟨i, j, hi, -⟩
    omega
  · obtain ⟨n, rfl⟩ := Int.eq_ofNat_of_zero_le (not_le.1 hscale).le
    simp only [if_neg hscale]
    refine (Paints.foldl (fun i => rasterizeRow_paints font mode glyph x y n color i) _).congr fun k => ?_
    have hrow (i : Nat) : i ∈ List.range (5 * n) ↔ (i : Int) < 5 * n := by rw [List.mem_range]; omega
    simp only [covers_iff, Int.toNat_natCast, Config.glyphH, Config.glyphW, hrow, exists_and_left]

/-- Settles O57: `Rasterize` paints what the glyph covers. -/
theorem rasterizeSetsExactlyTheCoveredPixels : Obligations.RasterizeSetsExactlyTheCoveredPixels :=
  fun font mode glyph x y scale color _ _ hpix =>
    have hpaints := rasterize_paints font mode glyph x y scale color
    ⟨hpaints.painted hpix, hpaints.kept hpix⟩

/-! ## Text -/

/-- The letter `n` places into `str`, drawn `6 n` to the right of `x`, covers the pixel `k` (R258, R259). -/
def TextCovers (font : Font) (mode : RasterMode) (str : List Char) (x y scale : Int) (k : Nat) : Prop :=
  ∃ (n : Nat) (ch : Char) (glyph : Glyph), str[n]? = some ch ∧ letterGlyph ch = some glyph ∧
    Covers font mode glyph (x + 6 * n) y scale k

section
variable {font : Font} {mode : RasterMode} {x y scale : Int} {k : Nat}

theorem textCovers_nil : ¬ TextCovers font mode [] x y scale k := by
  rintro ⟨n, ch, glyph, hch, -⟩
  simp at hch

/-- A text covers what its first letter covers, and what the rest of it covers from the next origin on. -/
theorem textCovers_cons {ch : Char} {rest : List Char} :
    TextCovers font mode (ch :: rest) x y scale k ↔
      (∃ glyph, letterGlyph ch = some glyph ∧ Covers font mode glyph x y scale k) ∨
        TextCovers font mode rest (x + Config.textPitch) y scale k := by
  have horigin (n : Nat) : x + 6 * ((n + 1 : Nat) : Int) = x + Config.textPitch + 6 * n := by
    simp only [Config.textPitch]
    omega
  constructor
  · rintro ⟨n, ch', glyph, hch, hglyph, hk⟩
    cases n with
    | zero =>
      obtain rfl := Option.some.inj hch
      exact .inl ⟨glyph, hglyph, by simpa using hk⟩
    | succ n => exact .inr ⟨n, ch', glyph, hch, hglyph, horigin n ▸ hk⟩
  · rintro (⟨glyph, hglyph, hk⟩ | ⟨n, ch', glyph, hch, hglyph, hk⟩)
    · exact ⟨0, ch, glyph, rfl, hglyph, by simpa using hk⟩
    · exact ⟨n + 1, ch', glyph, hch, hglyph, (horigin n).symm ▸ hk⟩

end

/-- One character paints what its letter covers, if it is a letter (R259). -/
theorem drawChars_singleton_paints (font : Font) (mode : RasterMode) (ch : Char) (x y scale : Int) (color : Colour) :
    Paints (drawChars font mode [ch] x y scale color) color fun k =>
      ∃ glyph, letterGlyph ch = some glyph ∧ Covers font mode glyph x y scale k := by
  simp only [drawChars]
  cases letterGlyph ch with
  | none => exact (Paints.nothing color).congr fun _ => by simp
  | some glyph => exact (rasterize_paints font mode glyph x y scale color).congr fun _ => by simp

theorem drawChars_paints (font : Font) (mode : RasterMode) (str : List Char) (x y scale : Int) (color : Colour) :
    Paints (drawChars font mode str x y scale color) color (TextCovers font mode str x y scale) := by
  induction str generalizing x with
  | nil => exact (Paints.nothing color).congr fun _ => iff_of_false not_false textCovers_nil
  | cons ch rest ih =>
    exact ((drawChars_singleton_paints font mode ch x y scale color).comp (ih _)).congr fun _ => textCovers_cons.symm

/-- A character that has a glyph is one of `A`..`Z`, whose codes are 65..90 (R259). -/
theorem toNat_of_letterGlyph {ch : Char} {glyph : Glyph} (h : letterGlyph ch = some glyph) :
    65 ≤ ch.toNat ∧ ch.toNat ≤ 90 := by
  unfold letterGlyph at h
  split at h <;> cases h <;> decide

/-- Settles O58: the text paints what its letters cover. -/
theorem drawStringDrawsItsLetters : Obligations.DrawStringDrawsItsLetters := by
  refine ⟨fun s str x y scale color cs hp => step_of_pending hp, fun _ _ _ _ _ _ _ => rfl,
    fun font s str x y scale color k hpix => ?_, by decide, fun ch hch => ?_⟩
  · have hpaints := drawChars_paints font s.params.rasterMode str x y scale (BitVec.ofInt 12 color)
    exact ⟨hpaints.painted hpix, hpaints.kept hpix⟩
  · refine Option.eq_none_iff_forall_ne_some.2 fun glyph h => ?_
    have hcode := toNat_of_letterGlyph h
    omega

end Sys2Proof.Machine
end

section
/-! PROOFS. The display frame (46_display_device R240 to R256): the loop of a frame processes a run of slots from the first
one on, advances each of them, and draws them in order from the memory it started with. -/

namespace Sys2Proof.Machine

open Sys2Proof.Claims

/-! ## CODEMAP -/

section
variable {t : List (Word × Glyph)} {cp : Word} {glyph : Glyph}

theorem codemapGlyph_eq_none : codemapGlyph t cp = none ↔ ¬ ∃ glyph, (cp, glyph) ∈ t := by
  simp only [codemapGlyph, Option.map_eq_none_iff, List.find?_eq_none, beq_iff_eq]
  exact ⟨fun h ⟨glyph, hmem⟩ => h _ hmem rfl, fun h e hmem he => h ⟨e.2, he ▸ hmem⟩⟩

theorem mem_of_codemapGlyph (h : codemapGlyph t cp = some glyph) : (cp, glyph) ∈ t := by
  obtain ⟨e, he, rfl⟩ := Option.map_eq_some_iff.1 h
  obtain rfl : e.1 = cp := by simpa using List.find?_some he
  exact List.mem_of_find?_eq_some he

/-- With one glyph a codepoint, the lookup answers what the table lists (R245). -/
theorem codemapGlyph_eq_some (ht : (t.map Prod.fst).Nodup) : codemapGlyph t cp = some glyph ↔ (cp, glyph) ∈ t := by
  refine ⟨mem_of_codemapGlyph, fun hmem => ?_⟩
  cases hfound : codemapGlyph t cp with
  | none => exact absurd ⟨glyph, hmem⟩ (codemapGlyph_eq_none.1 hfound)
  | some glyph' =>
    have hsame := List.inj_on_of_nodup_map ht (mem_of_codemapGlyph hfound) hmem rfl
    exact congrArg (some ·.2) hsame

end

/-- The default `CODEMAP` is the space, and then the letters numbered from 1 (R245). -/
theorem defaultCodemap_eq :
    defaultCodemap = (0, .space) :: glyphsAToZ.mapIdx fun n glyph => (BitVec.ofNat 32 (n + 1), glyph) := rfl

theorem mem_defaultCodemap {cp : Word} {glyph : Glyph} :
    (cp, glyph) ∈ defaultCodemap ↔
      (cp, glyph) = (0, .space) ∨ ∃ n, n < 26 ∧ cp = BitVec.ofNat 32 (n + 1) ∧ glyphsAToZ[n]? = some glyph := by
  rw [defaultCodemap_eq, List.mem_cons, List.mem_mapIdx]
  refine or_congr_right ⟨?_, ?_⟩
  · rintro ⟨n, hn, h⟩
    obtain ⟨rfl, rfl⟩ := Prod.mk.inj h
    exact ⟨n, hn, rfl, List.getElem?_eq_getElem hn⟩
  · rintro ⟨n, -, rfl, h⟩
    obtain ⟨hn, rfl⟩ := List.getElem?_eq_some_iff.1 h
    exact ⟨n, hn, rfl⟩

/-! ## One slot -/

theorem slotBase_succ (k : Nat) : slotBase k + Config.recordCells = slotBase (k + 1) := rfl

/-- The write-back of slot `j` advances cells 1 and 2 of that slot, and no cell of another slot (R252). -/
theorem readCell_writeBack_slot {m : Memory} (hm : Store.canonical m) (j k : Nat) {d : Nat} (hd : d < 5) :
    readCell (writeBack m (slotBase j)) (slotBase k + d) =
      if k = j ∧ (d = 1 ∨ d = 2) then readCell m (slotBase k + d) + 1 else readCell m (slotBase k + d) := by
  rw [readCell_writeBack hm]
  refine if_congr ?_ rfl rfl
  simp only [slotBase]
  omega

/-- The two memories hold the same record in slot `k`. -/
def SameRecord (m m' : Memory) (k : Nat) : Prop :=
  ∀ d, d < 5 → readCell m (slotBase k + d) = readCell m' (slotBase k + d)

theorem sameRecord_writeBack {m : Memory} (hm : Store.canonical m) {j k : Nat} (hne : k ≠ j) :
    SameRecord (writeBack m (slotBase j)) m k := by
  intro d hd
  rw [readCell_writeBack_slot hm j k hd, if_neg fun h => hne h.1]

/-- What a processed slot `k` draws: its glyph, if it has one (R245, R246). -/
def drawRecord (font : Font) (c : Params) (m : Memory) (k : Nat) (pix : Store 12) : Store 12 :=
  match codemapGlyph c.codemap (readCell m (slotBase k)) with
  | some glyph => drawSlot font c.rasterMode glyph m (slotBase k) pix
  | none => pix

section
variable {c : Params} {m m' : Memory} {k : Nat}

theorem SameRecord.slotGoesOn (h : SameRecord m m' k) : SlotGoesOn c m k ↔ SlotGoesOn c m' k := by
  have hcp : readCell m (slotBase k) = readCell m' (slotBase k) := h 0 (by decide)
  simp only [SlotGoesOn, hcp]

theorem SameRecord.drawRecord (h : SameRecord m m' k) (font : Font) (pix : Store 12) :
    Machine.drawRecord font c m k pix = Machine.drawRecord font c m' k pix := by
  have hcp : readCell m (slotBase k) = readCell m' (slotBase k) := h 0 (by decide)
  simp only [Machine.drawRecord, drawSlot, hcp, h 1 (by decide), h 2 (by decide), h 3 (by decide), h 4 (by decide)]

/-- With one glyph a codepoint, the glyph that covers is the one that the lookup answers (R245). -/
theorem slotCovers_iff {font : Font} (hc : (c.codemap.map Prod.fst).Nodup) (n : Nat) :
    SlotCovers font c m n k ↔ ∃ glyph, codemapGlyph c.codemap (readCell m (slotBase n)) = some glyph ∧
      Covers font c.rasterMode glyph (readCell m (slotBase n + 1)).toInt (readCell m (slotBase n + 2)).toInt
        (readCell m (slotBase n + 3)).toInt k := by
  simp only [SlotCovers, codemapGlyph_eq_some hc]

/-- A slot draws in the low 12 bits of its colour cell what its glyph covers (R244, R250). -/
theorem drawRecord_paints (font : Font) (hc : (c.codemap.map Prod.fst).Nodup) (m : Memory) (n : Nat) :
    Paints (drawRecord font c m n) ((readCell m (slotBase n + 4)).setWidth 12) (SlotCovers font c m n) := by
  refine Paints.congr ?_ fun k => (slotCovers_iff hc n).symm
  unfold Machine.drawRecord
  cases codemapGlyph c.codemap (readCell m (slotBase n)) with
  | none => exact (Paints.nothing _).congr fun _ => by simp
  | some glyph => exact (rasterize_paints font _ glyph _ _ _ _).congr fun _ => by simp

end

/-! ## The loop of a frame -/

section
variable {font : Font} {c : Params} {m : Memory} {k : Nat}

/-- A slot that ends the scan is left as it is, and nothing after it is looked at (R243, R246). -/
theorem scanSlots_of_not_goesOn (h : ¬ SlotGoesOn c m k) (n : Nat) (pix : Store 12) :
    scanSlots font c n (slotBase k) m pix = (m, pix) := by
  cases n with
  | zero => rfl
  | succ n =>
    unfold scanSlots
    split
    · rfl
    · rename_i hcp
      split
      · rename_i hglyph
        exact absurd ⟨hcp, .inr ⟨_, mem_of_codemapGlyph hglyph⟩⟩ h
      · rename_i hblank
        exact absurd ⟨hcp, .inl hblank⟩ h
      · rfl

/-- A slot that the scan goes on past is drawn and written back (R242, R252). -/
theorem scanSlots_of_goesOn (h : SlotGoesOn c m k) (n : Nat) (pix : Store 12) :
    scanSlots font c (n + 1) (slotBase k) m pix =
      scanSlots font c n (slotBase (k + 1)) (writeBack m (slotBase k)) (drawRecord font c m k pix) := by
  obtain ⟨hcp, hon⟩ := h
  rw [scanSlots, if_neg hcp, ← slotBase_succ, drawRecord]
  split
  · rename_i hglyph
    rw [hglyph]
  · rename_i hnone _
    rw [hnone]
  · rename_i hnone hstop
    rw [hstop] at hon
    exact absurd (hon.resolve_left nofun) (codemapGlyph_eq_none.1 hnone)

end

/-- The slots from `k` on that a loop of at most `n` turns processes are the first `r` of them. -/
def ProcessesFirst (c : Params) (m : Memory) (k n r : Nat) : Prop :=
  ∀ i, (i < n ∧ ∀ j, j ≤ i → SlotGoesOn c m (k + j)) ↔ i < r

theorem processesFirst_zero_of_not_goesOn {c : Params} {m : Memory} {k : Nat} (h : ¬ SlotGoesOn c m k) (n : Nat) :
    ProcessesFirst c m k n 0 :=
  fun i => iff_of_false (fun hi => h (hi.2 0 (Nat.zero_le i))) (Nat.not_lt_zero i)

/-- The write-back of a slot does not change which slots after it are processed. -/
theorem ProcessesFirst.cons {c : Params} {m : Memory} {k n r : Nat} (hm : Store.canonical m) (hk : SlotGoesOn c m k)
    (h : ProcessesFirst c (writeBack m (slotBase k)) (k + 1) n r) : ProcessesFirst c m k (n + 1) (r + 1) := by
  have hlater (j : Nat) : SlotGoesOn c (writeBack m (slotBase k)) (k + 1 + j) ↔ SlotGoesOn c m (k + (j + 1)) := by
    rw [(sameRecord_writeBack hm (by omega : k + 1 + j ≠ k)).slotGoesOn, Nat.add_right_comm, Nat.add_assoc]
  intro i
  cases i with
  | zero => simp [hk]
  | succ i =>
    rw [Nat.add_lt_add_iff_right, Nat.add_lt_add_iff_right, ← h i]
    simp only [hlater]
    refine and_congr_right fun _ => ⟨fun hall j hj => hall (j + 1) (Nat.succ_le_succ hj), fun hall j hj => ?_⟩
    cases j with
    | zero => exact hk
    | succ j => exact hall j (Nat.le_of_succ_le_succ hj)

/-- The loop over at most `n` slots from slot `k` on: it processes the first `r` of them, up to the one that ends the scan.
It advances `x` and `y` of those and no other cell of a slot, and draws them in order, each as it was when the loop began
(R242, R243, R246, R252). -/
theorem exists_scanSlots_eq (font : Font) (c : Params) (n k : Nat) {m : Memory} (hm : Store.canonical m)
    (pix : Store 12) :
    ∃ r, ProcessesFirst c m k n r ∧
      (∀ i d, d < 5 → readCell (scanSlots font c n (slotBase k) m pix).1 (slotBase (k + i) + d) =
        if i < r ∧ (d = 1 ∨ d = 2) then readCell m (slotBase (k + i) + d) + 1 else readCell m (slotBase (k + i) + d)) ∧
      (scanSlots font c n (slotBase k) m pix).2 =
        (List.range' k r).foldl (fun p j => drawRecord font c m j p) pix := by
  induction n generalizing k m pix with
  | zero => exact ⟨0, fun i => by simp, fun i d _ => by simp [scanSlots], rfl⟩
  | succ n ih =>
    by_cases hk : SlotGoesOn c m k
    · have hw := writeBack_canonical hm (slotBase k)
      obtain ⟨r, hr, hmem, hpix⟩ := ih (k + 1) hw (drawRecord font c m k pix)
      refine ⟨r + 1, hr.cons hm hk, fun i d hd => ?_, ?_⟩ <;> rw [scanSlots_of_goesOn hk]
      · cases i with
        | zero =>
          have hpassed : slotBase (k + 0) + d < slotBase (k + 1) := by simp only [slotBase]; omega
          rw [readCell_scanSlots_of_lt font c n _ hw hpassed, readCell_writeBack_slot hm k (k + 0) hd]
          simp
        | succ i =>
          have hlater : k + (i + 1) = k + 1 + i := by omega
          rw [hlater, hmem i d hd, sameRecord_writeBack hm (by omega) d hd]
          simp only [Nat.add_lt_add_iff_right]
      · rw [hpix, List.range'_succ, List.foldl_cons]
        refine List.foldl_ext _ _ _ fun p j hj => ?_
        have hle := (List.mem_range'_1.1 hj).1
        exact (sameRecord_writeBack hm (by omega : j ≠ k)).drawRecord font p
    · exact ⟨0, processesFirst_zero_of_not_goesOn hk _, fun i d _ => by simp [scanSlots_of_not_goesOn hk],
        by rw [scanSlots_of_not_goesOn hk]; rfl⟩

/-! ## The frame -/

section
variable (font : Font) (p : Nat) {s : State}

theorem displayFrame_pix (s : State) :
    (displayFrame font p s).pix = (scanSlots font s.params displaySlots Config.displayBase s.mem []).2 := by
  unfold displayFrame
  dsimp only
  split <;> rfl

/-- A frame processes the first `r` slots of the region: it advances `x` and `y` of those, and draws them in order into an
empty buffer, each as it was before the frame (R240, R241). -/
theorem exists_displayFrame_eq (hm : Memory.wf s.mem) :
    ∃ r, (∀ n, Processed s.params s.mem n ↔ n < r) ∧
      (∀ n d, d < 5 → readCell (displayFrame font p s).mem (slotBase n + d) =
        if n < r ∧ (d = 1 ∨ d = 2) then readCell s.mem (slotBase n + d) + 1 else readCell s.mem (slotBase n + d)) ∧
      (displayFrame font p s).pix = (List.range r).foldl (fun pix j => drawRecord font s.params s.mem j pix) [] := by
  obtain ⟨r, hr, hmem, hpix⟩ := exists_scanSlots_eq font s.params 96000 0 hm.1 []
  simp only [ProcessesFirst, Nat.zero_add] at hr hmem
  rw [displayFrame_mem, displayFrame_pix]
  exact ⟨r, hr, hmem, List.range_eq_range' ▸ hpix⟩

end

/-- Settles O56: a slot is processed exactly when the scan goes on past every slot up to it, and a cell past the end of memory
counts as the cell of a slot past the region, which is never processed. -/
theorem frameAdvancesExactlyTheDrawnSlots : Obligations.FrameAdvancesExactlyTheDrawnSlots := by
  intro font p s hm
  obtain ⟨r, hr, hmem, -⟩ := exists_displayFrame_eq font p hm
  refine ⟨fun k hk hon d hd => ?_, fun k _ hends d hd => ?_, fun a ha => ?_⟩
  · have hlt : k < r := (hr k).1 ⟨hk, hon⟩
    rw [hmem k d hd]
    exact if_congr (and_iff_right hlt) rfl rfl
  · obtain ⟨j, hj, hoff⟩ := hends
    rw [hmem k d hd, if_neg fun h => hoff (((hr k).2 h.1).2 j hj)]
  · rcases ha with hlow | hhigh
    · exact readCell_displayFrame_mem_of_lt font p hm hlow
    · obtain ⟨n, d, hd, hn, rfl⟩ : ∃ n d, d < 5 ∧ 96000 ≤ n ∧ slotBase n + d = a := by
        refine ⟨(a - 10005760) / 5, (a - 10005760) % 5, ?_, ?_, ?_⟩ <;>
          simp only [Config.memCells, slotBase] at * <;> omega
      rw [hmem n d hd, if_neg fun h => hn.not_gt ((hr n).2 h.1).1]

/-! ## The pixels of a frame -/

section
variable {f : Store 12 → Nat → Store 12} {colour : Nat → Colour} {S : Nat → Nat → Prop} {pix : Store 12} {r k : Nat}

/-- After turns in different colours a pixel has the colour of the last turn that paints it (R253). -/
theorem readCell_foldl_of_last (hf : ∀ j, Paints (fun p => f p j) (colour j) (S j)) (hpix : Store.canonical pix) {n : Nat}
    (hn : n < r) (hk : S n k) (hlast : ∀ j, n < j → j < r → ¬ S j k) :
    readCell ((List.range r).foldl f pix) k = colour n := by
  induction r with
  | zero => omega
  | succ r ih =>
    have hcanonical := (List.range r).foldlRecOn (motive := Store.canonical) f hpix fun q hq j _ => (hf j).canonical hq
    rw [List.range_succ, List.foldl_append]
    rcases Nat.lt_succ_iff_lt_or_eq.1 hn with hn | rfl
    · exact ((hf r).kept hcanonical (hlast r hn r.lt_succ_self)).trans
        (ih hn fun j hnj hj => hlast j hnj (Nat.lt_succ_of_lt hj))
    · exact (hf n).painted hcanonical hk

/-- A pixel that no turn paints keeps its value. -/
theorem readCell_foldl_of_none (hf : ∀ j, Paints (fun p => f p j) (colour j) (S j)) (hpix : Store.canonical pix)
    (hnone : ∀ j, j < r → ¬ S j k) : readCell ((List.range r).foldl f pix) k = readCell pix k := by
  refine ((List.range r).foldlRecOn (motive := fun q => Store.canonical q ∧ readCell q k = readCell pix k) f ⟨hpix, rfl⟩
    fun q hq j hj => ?_).2
  obtain ⟨hcanonical, hkept⟩ := hq
  exact ⟨(hf j).canonical hcanonical, ((hf j).kept hcanonical (hnone j (List.mem_range.1 hj))).trans hkept⟩

end

/-- Settles O60: the frame draws the processed slots in order into an empty buffer. -/
theorem framePaintsTheLastCoveringSlot : Obligations.FramePaintsTheLastCoveringSlot := by
  refine ⟨fun font p s k hm hcodemap => ?_, fun cp glyph => mem_defaultCodemap⟩
  obtain ⟨r, hr, -, hpix⟩ := exists_displayFrame_eq font p hm
  have hpaints (j : Nat) := drawRecord_paints font hcodemap s.mem j
  have hempty : Store.canonical ([] : Store 12) := ⟨.nil, nofun⟩
  simp only [hr, hpix]
  exact ⟨fun n hn hk hlast => readCell_foldl_of_last hpaints hempty hn hk hlast,
    fun hnone => readCell_foldl_of_none hpaints hempty hnone⟩

/-! ## The source's example -/

/-- Slot 0 holds the record of the example, and slot 1 the sentinel (R256). -/
structure HoldsExample (m : Memory) : Prop where
  codepoint : readCell m (slotBase 0) = 1
  x : readCell m (slotBase 0 + 1) = 10
  y : readCell m (slotBase 0 + 2) = 10
  scale : readCell m (slotBase 0 + 3) = 2
  colour : readCell m (slotBase 0 + 4) = 0xFFF
  sentinel : readCell m (slotBase 1) = 0

section
variable {m : Memory} (h : HoldsExample m)
include h

theorem HoldsExample.slotGoesOn_zero : SlotGoesOn defaultParams m 0 :=
  ⟨h.codepoint ▸ by decide, .inl rfl⟩

theorem HoldsExample.not_slotGoesOn_one : ¬ SlotGoesOn defaultParams m 1 :=
  fun hon => hon.1 h.sentinel

theorem HoldsExample.processed_iff {n : Nat} : Processed defaultParams m n ↔ n = 0 := by
  constructor
  · rintro ⟨-, hall⟩
    by_contra hn
    exact h.not_slotGoesOn_one (hall 1 (Nat.one_le_iff_ne_zero.2 hn))
  · rintro rfl
    refine ⟨by decide, fun j hj => ?_⟩
    obtain rfl := Nat.le_zero.1 hj
    exact h.slotGoesOn_zero

theorem HoldsExample.slotCovers_iff {font : Font} {k : Nat} :
    SlotCovers font defaultParams m 0 k ↔ Covers font .compat .a 10 10 2 k := by
  have hglyph : codemapGlyph defaultParams.codemap 1 = some .a := rfl
  rw [Machine.slotCovers_iff (by decide), h.codepoint, h.x, h.y, h.scale, hglyph]
  exact ⟨fun ⟨glyph, hsome, hk⟩ => Option.some.inj hsome ▸ hk, fun hk => ⟨.a, rfl, hk⟩⟩

end

/-- Glyph A at the example's origin and scale covers pixels of rows and columns 20..29 of the buffer, two by two a bit. -/
theorem covers_example_iff {font : Font} {k : Nat} :
    Covers font .compat .a 10 10 2 k ↔
      ∃ i j : Nat, i < 10 ∧ j < 10 ∧ font .a (i / 2) (j / 2) = true ∧ k = (20 + i) * 800 + (20 + j) := by
  refine exists_congr fun i => exists_congr fun j => ?_
  have htwo : (2 : Int).toNat = 2 := rfl
  simp only [htwo]
  constructor
  · rintro ⟨hi, hj, hfont, hk, -⟩
    exact ⟨by omega, by omega, hfont, by omega⟩
  · rintro ⟨hi, hj, hfont, hk⟩
    exact ⟨by omega, by omega, hfont, by omega, by omega⟩

section
variable {s : State}

/-- A scan with one triggered port is the frame of that port. -/
theorem scan_of_only_port16 (font : Font) (hdev : Store.canonical s.dev)
    (h : ∀ p, 16 ≤ p → p ≤ 31 → (readCell s.dev p = 1 ↔ p = 16)) : scan font s = displayFrame font 16 s := by
  have honly : (List.range 256).filter (fun p => decide (DisplayTriggered s p)) =
      (List.range 256).filter fun p => decide (p = 16) := by
    refine List.filter_congr fun p _ => decide_eq_decide.2 ⟨fun ⟨hge, hle, hone⟩ => (h p hge hle).1 hone, ?_⟩
    rintro rfl
    exact ⟨le_rfl, by decide, (h 16 le_rfl (by decide)).2 rfl⟩
  have hsingle : (List.range 256).filter (fun p => decide (p = 16)) = [16] := by decide
  rw [scan_eq_frames font hdev, honly, hsingle]
  rfl

/-- The cells of the example's record after a frame: `x` and `y` are one more (R252). -/
theorem readCell_displayFrame_example (font : Font) (hm : Memory.wf s.mem) (hparams : s.params = defaultParams)
    (h : HoldsExample s.mem) {d : Nat} (hd : d < 5) :
    readCell (displayFrame font 16 s).mem (slotBase 0 + d) =
      if d = 1 ∨ d = 2 then readCell s.mem (slotBase 0 + d) + 1 else readCell s.mem (slotBase 0 + d) := by
  obtain ⟨hadvanced, -⟩ := frameAdvancesExactlyTheDrawnSlots font 16 s hm
  refine hadvanced 0 (by decide) (fun j hj => ?_) d hd
  obtain rfl := Nat.le_zero.1 hj
  exact hparams ▸ h.slotGoesOn_zero

/-- The pixels after a frame of the example: 0xFFF where glyph A covers, and 0 elsewhere. -/
theorem readCell_pix_displayFrame_example (font : Font) (hm : Memory.wf s.mem) (hparams : s.params = defaultParams)
    (h : HoldsExample s.mem) (k : Nat) :
    (Covers font .compat .a 10 10 2 k → readCell (displayFrame font 16 s).pix k = 0xFFF) ∧
    (¬ Covers font .compat .a 10 10 2 k → readCell (displayFrame font 16 s).pix k = 0) := by
  have hpixels := framePaintsTheLastCoveringSlot.1 font 16 s k hm
  simp only [hparams, h.processed_iff, forall_eq, h.slotCovers_iff, h.colour] at hpixels
  obtain ⟨hlast, hnone⟩ := hpixels (by decide)
  exact ⟨fun hk => hlast hk fun j hj hzero => absurd hj (by omega), hnone⟩

end

/-- Settles O59: the step is the frame of port 16, whose one processed slot is the example's. -/
theorem exampleRecordIsDrawnAndAdvanced : Obligations.ExampleRecordIsDrawnAndAdvanced := by
  intro s cs hinv hparams hp hports hcp hx hy hscale hcolour hsentinel
  obtain ⟨hm, -, ⟨hdev, -⟩, -⟩ := hinv
  have h : HoldsExample s.mem := ⟨hcp, hx, hy, hscale, hcolour, hsentinel⟩
  have hcells {d : Nat} (hd : d < 5) := readCell_displayFrame_example Config.font hm hparams h hd
  have hpixels := readCell_pix_displayFrame_example Config.font hm hparams h
  have hstep : step s = .next ((displayFrame Config.font 16 s).setHost cs .none) := by
    rw [← scan_of_only_port16 Config.font hdev hports]
    exact step_of_pending hp
  refine ⟨_, hstep, (hcells (d := 0) (by decide)).trans hcp, (hcells (d := 1) (by decide)).trans (congrArg (· + 1) hx),
    (hcells (d := 2) (by decide)).trans (congrArg (· + 1) hy), (hcells (d := 3) (by decide)).trans hscale,
    (hcells (d := 4) (by decide)).trans hcolour, fun r c dr dc hr hc hdr hdc => ?_, fun row col hrow hcol hout => ?_⟩
  · split
    · rename_i hbit
      refine (hpixels _).1 (covers_example_iff.2 ⟨2 * r + dr, 2 * c + dc, by omega, by omega, ?_, by omega⟩)
      rwa [(by omega : (2 * r + dr) / 2 = r), (by omega : (2 * c + dc) / 2 = c)]
    · rename_i hbit
      refine (hpixels _).2 fun hk => hbit ?_
      obtain ⟨i, j, hi, hj, hfont, hk⟩ := covers_example_iff.1 hk
      rwa [(by omega : i / 2 = r), (by omega : j / 2 = c)] at hfont
  · refine (hpixels _).2 fun hk => ?_
    obtain ⟨i, j, hi, hj, -, hk⟩ := covers_example_iff.1 hk
    omega

end Sys2Proof.Machine
end

section
/-! PROOFS. Exceptions: a fault changes mode and cause only, every command is answered by a next state, and the two ways a
`LOAD` fails (60_exceptions R276 to R279). -/

namespace Sys2Proof.Machine

open Sys2Proof.Claims

/-! ## Precise faults -/

/-- Settles O38: what retires in a Running core is no fault, and taking a fault sets mode and cause only. -/
theorem faultsArePrecise : Obligations.FaultsArePrecise := by
  intro s t hs hst hfault
  rcases execOne_cases hst with ⟨i, u, hu, rfl⟩ | ⟨f, rfl⟩
  · have hfault : Faulted u := hfault
    exact absurd hfault (hu.not_faulted hs)
  · exact ⟨f, rfl⟩

/-! ## Every step has a next state -/

theorem onNext_isNext {r : Result} (h : ∃ t, r = .next t) (f : State → State) : ∃ t, onNext r f = .next t := by
  obtain ⟨t, rfl⟩ := h
  exact ⟨f t, rfl⟩

/-- `STEP()` ends in a next state: Halted, with its budget used up, or after `Exec()`. -/
theorem stepQuantum_isNext (s : State) : ∃ t, stepQuantum s = .next t := by
  unfold stepQuantum
  split_ifs
  · exact ⟨s, rfl⟩
  · exact ⟨synthesizedHalt s, rfl⟩
  · exact onNext_isNext (execOne_isNext s) countRetired

/-- Every command ends in a next state, a failing `LOAD` and a faulting instruction too. -/
theorem performCommand_isNext (c : Command) (cs : List Command) (s : State) : ∃ t, performCommand c cs s = .next t := by
  cases c with
  | reset => exact ⟨_, rfl⟩
  | load p =>
    simp only [performCommand]
    split <;> exact ⟨_, rfl⟩
  | step => exact onNext_isNext (stepQuantum_isNext s) (finishStatus cs)
  | run =>
    simp only [performCommand]
    split_ifs
    · exact ⟨_, rfl⟩
    · exact onNext_isNext (execOne_isNext s) scanAfter
  | scan => exact ⟨_, rfl⟩
  | drawString str x y scale color => exact ⟨_, rfl⟩

theorem step_isNext (s : State) : ∃ t, step s = .next t := by
  unfold step performNext
  cases s.pending with
  | nil => exact ⟨s, rfl⟩
  | cons c cs => exact performCommand_isNext c cs s

/-- Settles O39, by induction on the number of steps. -/
theorem noStepStopsTheMachine : Obligations.NoStepStopsTheMachine := by
  intro k
  induction k with
  | zero => exact fun s => ⟨s, rfl⟩
  | succ k ih =>
    intro s
    obtain ⟨s', hs⟩ := step_isNext s
    obtain ⟨t, ht⟩ := ih s'
    exact ⟨t, (run_succ_of_step (M := Sys2Proof.core) hs k).trans ht⟩

/-! ## A `LOAD` that fails -/

section
variable {p : List Int}

/-- The length is tested first (70_reset_and_hazards R294). -/
theorem loadProblem_of_tooLong (h : Config.displayBase < p.length) : loadProblem p = some .tooLong := if_pos h

theorem loadProblem_of_badToken (hlen : p.length ≤ Config.displayBase) (h : ∃ v ∈ p, ¬ InRange v) :
    loadProblem p = some .badToken := by
  obtain ⟨v, hv, hout⟩ := h
  have hall : ¬ p.all fitsCell = true := fun hall => hout (inRange_of_fitsCell (List.all_eq_true.1 hall v hv))
  unfold loadProblem
  rw [if_neg (not_lt.2 hlen), if_neg hall]

/-- A `LOAD` with a problem is finished with `ProgramLoadError`, the core as it was (60_exceptions R279). -/
theorem step_of_loadProblem {s : State} {cs : List Command} {r : LoadReason} (hp : s.pending = .load p :: cs)
    (hr : loadProblem p = some r) : step s = .next (finish cs (.failed (.programLoadError r)) s) := by
  rw [step_of_pending hp, performCommand, hr]

end

/-- Settles O52: each failure is the problem that `LOAD` finds first. -/
theorem failedLoadChangesNothing : Obligations.FailedLoadChangesNothing :=
  ⟨fun _ _ _ hp hlen => step_of_loadProblem hp (loadProblem_of_tooLong hlen),
    fun _ _ _ hp hlen hbad => step_of_loadProblem hp (loadProblem_of_badToken hlen hbad)⟩

end Sys2Proof.Machine
end

section
/-! PROOFS. A `LOAD` that succeeds: the core it leaves, and the number of `STEP`s after which that core is Halted
(70_reset_and_hazards R293, R296, R307). -/

namespace Sys2Proof.Machine

open Sys2Proof.Claims

/-! ## The loaded core -/

/-- The head of a program stands at its address, and the rest from the next address on. -/
theorem readCell_imageFrom_cons (v : Int) (p : List Int) (a b : Nat) :
    readCell (imageFrom a (v :: p)) b = if b = a then wrap32 v else readCell (imageFrom (a + 1) p) b := by
  have habove : Store.above a (imageFrom (a + 1) p) := fun c hc => (mem_imageFrom hc).1
  by_cases hv : wrap32 v = 0
  · rw [imageFrom, if_pos hv, hv]
    split_ifs with hb
    · rw [hb]
      exact readCell_of_above habove
    · rfl
  · rw [imageFrom, if_neg hv]
    rfl

/-- The cells of a loaded program, and 0 after its end. -/
theorem readCell_imageFrom (p : List Int) (a k : Nat) :
    readCell (imageFrom a p) (a + k) = (p[k]?.map wrap32).getD 0 := by
  induction p generalizing a k with
  | nil => rfl
  | cons v p ih =>
    rw [readCell_imageFrom_cons]
    cases k with
    | zero => exact if_pos rfl
    | succ k =>
      rw [if_neg (by omega), show a + (k + 1) = a + 1 + k by omega]
      exact ih (a + 1) k

/-- `LOAD` writes the length to `R8`; the other registers are those of the reset (10_state R32). -/
theorem loadProgram_x (p : List Int) (s : State) (j : Fin 8) :
    (loadProgram p s).x[j] = if j = 7 then BitVec.ofNat 32 p.length else 0 := by
  have hset : (loadProgram p s).x[j] = if 7 = j then BitVec.ofNat 32 p.length else (resetCore s).x[j] :=
    State.reg_setReg (resetCore s) 7 j _
  simp only [hset, resetCore_x, eq_comm]

theorem loadProblem_of_inRange {p : List Int} (hlen : p.length ≤ Config.displayBase) (hall : ∀ v ∈ p, InRange v) :
    loadProblem p = none :=
  loadProblem_none.2 ⟨hlen, List.all_eq_true.2 fun v hv => decide_eq_true (hall v hv)⟩

theorem step_of_load {s : State} {p : List Int} {cs : List Command} (hp : s.pending = .load p :: cs)
    (hlen : p.length ≤ Config.displayBase) (hall : ∀ v ∈ p, InRange v) :
    step s = .next (finish cs .ok (loadProgram p s)) := by
  rw [step_of_pending hp, performCommand, loadProblem_of_inRange hlen hall]

/-- Settles O51: memory is the image of the program, `R8` its length, and all else is the reset's or set by `LOAD`. -/
theorem loadPlacesTheProgram : Obligations.LoadPlacesTheProgram := by
  intro s p cs hp hlen hall
  refine ⟨_, step_of_load hp hlen hall, fun a => ?_, loadProgram_x p s, rfl, rfl, rfl, rfl, rfl, fun _ => rfl, fun _ => rfl,
    rfl, rfl, rfl, rfl, rfl, rfl, rfl⟩
  have hread := readCell_imageFrom p 0 a
  rw [Nat.zero_add] at hread
  refine hread.trans ?_
  cases p[a]? <;> rfl

/-! ## Progress under STEP -/

/-- A `STEP` whose budget is used up (40_engine R109). -/
theorem step_of_budget_le {s : State} {cs : List Command} (hm : s.mode = .running) (hp : s.pending = .step :: cs)
    (hb : budget s ≤ s.stepCount) : step s = .next (finishStatus cs (synthesizedHalt s)) := by
  rw [step_of_pending hp, performCommand, stepQuantum_of_budget_le hm hb]
  rfl

/-- Unless a fault ended it, `Exec()` is counted. -/
theorem countRetired_halted_or_counts (u : State) :
    (countRetired u).mode = .halted ∨ (countRetired u).stepCount = u.stepCount + 1 := by
  by_cases hf : Faulted u
  · rw [countRetired_of_faulted hf]
    exact .inl hf.1
  · rw [countRetired_of_not_faulted hf]
    exact .inr rfl

/-- `k` `STEP`s are to come, and a core that is still Running has a budget that fewer than `k` of them use up. -/
structure HaltsWithin (k : Nat) (s : State) : Prop where
  steps : s.pending = List.replicate k .step
  source : s.params.budgetSource = .stepsField
  left : s.mode = .running → s.stepCount ≤ s.steps ∧ s.steps < s.stepCount + k

section
variable {k : Nat} {s : State}

theorem HaltsWithin.of_halted (hsteps : s.pending = List.replicate k .step)
    (hsource : s.params.budgetSource = .stepsField) (hm : s.mode = .halted) : HaltsWithin k s where
  steps := hsteps
  source := hsource
  left hr := by
    rw [hm] at hr
    cases hr

/-- A `STEP` finds the core Halted, halts it with its budget used up, or runs an instruction that halts it or counts. -/
theorem HaltsWithin.step (h : HaltsWithin (k + 1) s) : ∃ t, Machine.step s = .next t ∧ HaltsWithin k t := by
  obtain ⟨hsteps, hsource, hleft⟩ := h
  cases hm : s.mode with
  | halted =>
    have ht := haltedStepAndRunChangeNothing s .step (List.replicate k .step) hm (.inl rfl) hsteps
    exact ⟨_, ht, .of_halted rfl hsource hm⟩
  | running =>
    obtain ⟨hle, hlt⟩ := hleft hm
    rcases hle.eq_or_lt with hused | hwithin
    · have hb : budget s ≤ s.stepCount := by
        simp only [budget, hsource]
        exact Int.ofNat_le.2 hused.ge
      exact ⟨_, step_of_budget_le hm hsteps hb, .of_halted rfl hsource rfl⟩
    · obtain ⟨u, hu⟩ := execOne_isNext s
      obtain ⟨husteps, hucount, huparams⟩ := execOne_counters hu
      obtain ⟨-, hcsteps, hcparams⟩ := countRetired_counters u
      have hsource' : (countRetired u).params.budgetSource = .stepsField := by rw [hcparams, huparams, hsource]
      refine ⟨_, step_of_step_pending hm hsteps (.inl ⟨hsource, hwithin⟩) hu, ?_⟩
      rcases countRetired_halted_or_counts u with hh | hcount
      · exact .of_halted rfl hsource' hh
      · refine ⟨rfl, hsource', fun _ => ?_⟩
        change (countRetired u).stepCount ≤ (countRetired u).steps ∧
          (countRetired u).steps < (countRetired u).stepCount + k
        omega

/-- With no `STEP` left, a Running core's budget would be used up by fewer than none. -/
theorem HaltsWithin.mode_of_run {t : State} (h : HaltsWithin k s) (ht : Host.Core.run Sys2Proof.core k s = .next t) :
    t.mode = .halted := by
  induction k generalizing s with
  | zero =>
    cases ht
    cases hm : t.mode with
    | halted => rfl
    | running =>
      obtain ⟨hle, hlt⟩ := h.left hm
      omega
  | succ k ih =>
    obtain ⟨s', hs', h'⟩ := h.step
    exact ih h' ((run_succ_of_step (M := Sys2Proof.core) hs' k).symm.trans ht)

/-- A `LOAD` of `L` cells leaves a budget of `L`, which fewer than `L + 1` `STEP`s use up. -/
theorem mode_of_run_load_steps {p : List Int} {t : State}
    (ht : Host.Core.run Sys2Proof.core (p.length + 2) s = .next t)
    (hp : s.pending = .load p :: List.replicate (p.length + 1) .step) (hsource : s.params.budgetSource = .stepsField)
    (hlen : p.length ≤ Config.displayBase) (hall : ∀ v ∈ p, InRange v) : t.mode = .halted := by
  have hs' := step_of_load hp hlen hall
  have hleft : 0 ≤ p.length ∧ p.length < 0 + (p.length + 1) := by omega
  have hstart : HaltsWithin (p.length + 1) (finish (List.replicate (p.length + 1) .step) .ok (loadProgram p s)) :=
    ⟨rfl, hsource, fun _ => hleft⟩
  exact hstart.mode_of_run ((run_succ_of_step (M := Sys2Proof.core) hs' (p.length + 1)).symm.trans ht)

end

/-- Settles O49: the start state is one whose commands are the `LOAD` and then the `STEP`s. -/
theorem stepsAfterLoadReachHalted : Obligations.StepsAfterLoadReachHalted :=
  fun _ _ _ hsource hlen hall ht => mode_of_run_load_steps ht rfl hsource hlen hall

end Sys2Proof.Machine
end
